-- ==== Sys2Proof/Word.lean ====
section
/-! DEFINITION. The words of the block: W-bit register values, bytes, and the 32-byte buffer. -/

namespace Sys2Proof

/-- A register value: an unsigned W-bit integer (R13). -/
abbrev Word (w : Nat) := BitVec w

/-- A stream byte (R71), and ADD's constant read as two's complement (R107, D7). -/
abbrev Byte := BitVec 8

/-- The byte-source buffer that Refill transforms (R10, R33). -/
abbrev Bytes32 := Vector Byte 32

end Sys2Proof
end

