-- ==== Sys2Proof/Config.lean ====
section
/-! DEFINITION. The configuration set of R11, and the parameter Refill of R10. -/

namespace Sys2Proof

/-- TOTAL_LATENCY: cycle slots of the busy table (R11, R130). -/
@[simp] abbrev Config.totalLatency : Nat := 54

/-- ALU_COUNT: lanes of the busy table (R11, R130). -/
@[simp] abbrev Config.aluCount : Nat := 2

/-- LAT_MUL: simulated latency of MUL (R11, R132). -/
@[simp] abbrev Config.latMul : Nat := 3

/-- LAT_OTHER: simulated latency of the other operative instructions (R11, R132). -/
@[simp] abbrev Config.latOther : Nat := 1

/-- ALU_COUNT_MUL: lanes that may execute MUL (R11, R133). -/
@[simp] abbrev Config.aluCountMul : Nat := 1

/-- RETRY_CAP: consecutive placement failures that end generation (R11, R139). -/
@[simp] abbrev Config.retryCap : Nat := 64

/-- CAPACITY: operative instructions a Program can hold (R11, R139). -/
@[simp] abbrev Config.capacity : Nat := 109

/-- PROGRAM_MAX: greatest length of a Program, RET included (R11, R40). -/
@[simp] abbrev Config.programMax : Nat := 110

/-- Greatest number of decode attempts of one generate call (R145); it bounds the big-step `generate`. -/
@[simp] abbrev Config.maxAttempts : Nat := 6976

/-- W at `State.reset`: 64. DESIGN CHOICE (log 1), unsafe for a claim about the reset state alone: the spec leaves
W ∈ {32, 64} open (R9, D14). Every other definition takes W from the state. -/
@[simp] abbrev Config.resetWidth : Nat := 64

/-- Refill : Bytes32 → Bytes32 (R10), with its key inside it (D31). The spec never defines it, so it has no body:
whatever is proved of the machine holds for every Refill (log 2). -/
opaque Config.refill : Bytes32 → Bytes32

end Sys2Proof
end

