-- ==== Sys2Proof/Syntax.lean ====
section
/-! DEFINITION. The canonical instruction records (R76), one constructor per canonical opcode (R2). -/

namespace Sys2Proof

/-- A canonical record (op, dst, src, C) of R76, its op as the constructor. Every record carries dst, src and C,
because R182 gives a meaning to records whose unused fields are not zero (log 4). The three MUL rows of the opcode
table (raw 0, 1, 2) select the one canonical MUL (R73, R88; log 3). -/
inductive Instr where
  /-- x[dst] ← x[dst] × x[src] (R191). -/
  | mul (dst : Fin 4) (src : Fin 8) (c : Byte)
  /-- x[dst] ← x[dst] + x[src] + sext C (R192). -/
  | add (dst : Fin 4) (src : Fin 8) (c : Byte)
  /-- x[dst] ← x[dst] − x[src] (R193). -/
  | sub (dst : Fin 4) (src : Fin 8) (c : Byte)
  /-- x[dst] ← rotate right of x[dst] by x[src] mod W (R210). -/
  | ror (dst : Fin 4) (src : Fin 8) (c : Byte)
  /-- x[dst] ← rotate left of x[dst] by x[src] mod W (R211). -/
  | rol (dst : Fin 4) (src : Fin 8) (c : Byte)
  /-- x[dst] ← x[dst] ⊕ x[src] (R212). -/
  | xor (dst : Fin 4) (src : Fin 8) (c : Byte)
  /-- Halt (R173). -/
  | ret (dst : Fin 4) (src : Fin 8) (c : Byte)
  deriving DecidableEq, Repr

/-- RET's record (RET, 0, 0, 0), the one the Generator appends (R78, R141, D8). -/
def Instr.retRecord : Instr := .ret 0 0 0

/-- Is this record's op RET? -/
def Instr.isRet : Instr → Bool
  | .ret _ _ _ => true
  | .mul _ _ _ | .add _ _ _ | .sub _ _ _ | .ror _ _ _ | .rol _ _ _ | .xor _ _ _ => false

end Sys2Proof
end

