-- ==== Sys2Proof/WellFormed.lean ====
section
/-! DEFINITION. Well-formed records and well-formed Programs (R40). -/

namespace Sys2Proof

/-- The conditions R40 puts on one record: C is 0 outside ADD and RET is (RET, 0, 0, 0) (D8), and SUB and XOR never
have src = dst. The field ranges are in the types. -/
def Instr.wellFormed : Instr → Bool
  | .mul _ _ c => c == 0
  | .add _ _ _ => true
  | .sub dst src c => src.val != dst.val && c == 0
  | .ror _ _ c => c == 0
  | .rol _ _ c => c == 0
  | .xor dst src c => src.val != dst.val && c == 0
  | .ret dst src c => dst == 0 && src == 0 && c == 0

/-- WF(Prog) of R40: at most 110 records, RET exactly once and last, as (RET, 0, 0, 0), and every record well formed. -/
abbrev ProgramWF (prog : List Instr) : Prop :=
  1 ≤ prog.length ∧ prog.length ≤ Config.programMax ∧
    prog.getLast? = some Instr.retRecord ∧
    (∀ i ∈ prog.dropLast, i.isRet = false) ∧
    ∀ i ∈ prog, i.wellFormed = true

end Sys2Proof
end

