-- ==== Sys2Proof/Decode.lean ====
section
/-! DEFINITION. The decoder of compact bytes (R104-R108) and of canonical records (R76, R80), and the encoders. -/

namespace Sys2Proof

/-- The canonical opcodes (R76). -/
inductive Opcode where
  | mul | add | sub | ror | rol | xor | ret
  deriving DecidableEq, Repr

/-- A record whose fields are not yet checked against the ranges of R76: what a caller that builds its own sequence
hands to execute (R235). -/
structure RawRecord where
  op  : Nat
  dst : Nat
  src : Nat
  c   : Int
  deriving DecidableEq, Repr

/-- Why a sequence of bytes or a raw record is no canonical instruction. No byte of the stream is ever refused
(R74): the first two say only that the bytes end too soon. -/
inductive DecodeError where
  /-- no byte is left -/
  | endOfBytes
  /-- an ADD's constant, or a record's four bytes, are cut off -/
  | truncated
  /-- the op number is not 0 to 6 (R76, R77) -/
  | opOutOfRange
  /-- dst is not 0 to 3 (R76) -/
  | dstOutOfRange
  /-- src is not 0 to 7 (R76) -/
  | srcOutOfRange
  /-- C is not −128 to 127 (R76) -/
  | constantOutOfRange
  deriving DecidableEq, Repr

/-! ### The record as four fields (R76) -/

def Instr.opcode : Instr → Opcode
  | .mul _ _ _ => .mul
  | .add _ _ _ => .add
  | .sub _ _ _ => .sub
  | .ror _ _ _ => .ror
  | .rol _ _ _ => .rol
  | .xor _ _ _ => .xor
  | .ret _ _ _ => .ret

def Instr.dst : Instr → Fin 4
  | .mul d _ _ | .add d _ _ | .sub d _ _ | .ror d _ _ | .rol d _ _ | .xor d _ _ | .ret d _ _ => d

def Instr.src : Instr → Fin 8
  | .mul _ s _ | .add _ s _ | .sub _ s _ | .ror _ s _ | .rol _ s _ | .xor _ s _ | .ret _ s _ => s

def Instr.constant : Instr → Byte
  | .mul _ _ c | .add _ _ c | .sub _ _ c | .ror _ _ c | .rol _ _ c | .xor _ _ c | .ret _ _ c => c

/-- The record (op, dst, src, C). -/
def Instr.ofFields : Opcode → Fin 4 → Fin 8 → Byte → Instr
  | .mul, d, s, c => .mul d s c
  | .add, d, s, c => .add d s c
  | .sub, d, s, c => .sub d s c
  | .ror, d, s, c => .ror d s c
  | .rol, d, s, c => .rol d s c
  | .xor, d, s, c => .xor d s c
  | .ret, d, s, c => .ret d s c

/-- The canonical opcode numbers (R77, D2). -/
def Opcode.number : Opcode → Nat
  | .mul => 0
  | .add => 1
  | .sub => 2
  | .ror => 3
  | .rol => 4
  | .xor => 5
  | .ret => 6

/-- The opcode a number of R77 stands for. -/
def Opcode.ofNumber : Nat → Option Opcode
  | 0 => some .mul
  | 1 => some .add
  | 2 => some .sub
  | 3 => some .ror
  | 4 => some .rol
  | 5 => some .xor
  | 6 => some .ret
  | _ => none

/-! ### The compact byte (R71, R72, R104): fields by shift and mask -/

/-- b[2:0] = b & 7 (bit positions: D1, log 5). -/
def rawField (b : Byte) : Fin 8 := ((b &&& 7).setWidth 3).toFin

/-- b[4:3] = (b >> 3) & 3 (D1, log 5). -/
def dstField (b : Byte) : Fin 4 := (((b >>> 3) &&& 3).setWidth 2).toFin

/-- b[7:5] = (b >> 5) & 7, the source before the collision fix (D1, log 5). -/
def srcField (b : Byte) : Fin 8 := (((b >>> 5) &&& 7).setWidth 3).toFin

/-- MapOp (R105, R73). It never yields RET (R79). -/
def mapOp (raw : Fin 8) : Opcode :=
  match raw with
  | 0 | 1 | 2 => .mul
  | 3 => .add
  | 4 => .sub
  | 5 => .ror
  | 6 => .rol
  | 7 => .xor

/-- FixCollision (R106): SUB and XOR with src = dst read x[dst + 4] instead. -/
def fixCollision (op : Opcode) (dst : Fin 4) (src : Fin 8) : Fin 8 :=
  if (op = .sub ∨ op = .xor) ∧ src.val = dst.val then ⟨dst.val + 4, by omega⟩ else src

/-- Decode (R108): the record one compact byte selects. C is 0 here, and stays 0 unless a placed ADD reads it
(R78, R107). Pure and total (R74). -/
def decodeByte (b : Byte) : Instr :=
  Instr.ofFields (mapOp (rawField b)) (dstField b)
    (fixCollision (mapOp (rawField b)) (dstField b) (srcField b)) 0

/-- Does a C byte follow this record's compact byte when it is placed (R75)? -/
def Instr.takesConstant : Instr → Bool
  | .add _ _ _ => true
  | .mul _ _ _ | .sub _ _ _ | .ror _ _ _ | .rol _ _ _ | .xor _ _ _ | .ret _ _ _ => false

/-- The record with its C set to a fetched byte. -/
def Instr.withConstant (i : Instr) (c : Byte) : Instr := Instr.ofFields i.opcode i.dst i.src c

/-- The instruction at the head of the stream, as it is when placed: an ADD takes the next byte as its C (R75).
The bytes after it come back with it. -/
def decodeStream : List Byte → Except DecodeError (Instr × List Byte)
  | [] => .error .endOfBytes
  | b :: rest =>
    if (decodeByte b).takesConstant then
      match rest with
      | [] => .error .truncated
      | c :: rest' => .ok ((decodeByte b).withConstant c, rest')
    else .ok (decodeByte b, rest)

/-! ### Canonical records -/

/-- A raw record checked against the ranges of R76; what lies outside is refused by name (R235). -/
def decodeRecord (r : RawRecord) : Except DecodeError Instr :=
  match Opcode.ofNumber r.op with
  | none => .error .opOutOfRange
  | some op =>
    if hd : r.dst < 4 then
      if hs : r.src < 8 then
        if -128 ≤ r.c ∧ r.c ≤ 127 then
          .ok (Instr.ofFields op ⟨r.dst, hd⟩ ⟨r.src, hs⟩ (BitVec.ofInt 8 r.c))
        else .error .constantOutOfRange
      else .error .srcOutOfRange
    else .error .dstOutOfRange

/-- A caller's sequence up to and including its first RET, refused at a malformed record there (R235). The entries
after the first RET may hold anything and are not inspected (R39, R177; D25). -/
def decodeRecords : List RawRecord → Except DecodeError (List Instr)
  | [] => .ok []
  | r :: rs =>
    match decodeRecord r with
    | .error e => .error e
    | .ok i =>
      if i.isRet then .ok [i]
      else
        match decodeRecords rs with
        | .error e => .error e
        | .ok p => .ok (i :: p)

/-- One record from its four serialized bytes op, dst, src, C mod 256 (R80). -/
def decodeSerial : List Byte → Except DecodeError (Instr × List Byte)
  | op :: dst :: src :: c :: rest =>
    match decodeRecord ⟨op.toNat, dst.toNat, src.toNat, c.toInt⟩ with
    | .error e => .error e
    | .ok i => .ok (i, rest)
  | [] => .error .endOfBytes
  | _ => .error .truncated

/-- A Program from its serialization (R80). -/
def decodeProgram : List Byte → Except DecodeError (List Instr)
  | op :: dst :: src :: c :: rest =>
    match decodeRecord ⟨op.toNat, dst.toNat, src.toNat, c.toInt⟩ with
    | .error e => .error e
    | .ok i =>
      match decodeProgram rest with
      | .error e => .error e
      | .ok p => .ok (i :: p)
  | [] => .ok []
  | _ => .error .truncated

/-! ### Encoders -/

/-- The raw record of an instruction: R76's four fields as numbers, C signed. -/
def Instr.raw (i : Instr) : RawRecord :=
  ⟨i.opcode.number, i.dst.val, i.src.val, i.constant.toInt⟩

/-- Canonical serialization of a record (R80, D17). -/
def encode (i : Instr) : List Byte :=
  [BitVec.ofNat 8 i.opcode.number, BitVec.ofNat 8 i.dst.val, BitVec.ofNat 8 i.src.val, i.constant]

/-- Canonical serialization of a Program: its records' bytes in index order (R80). -/
def encodeProgram (prog : List Instr) : List Byte := prog.flatMap encode

/-- The raw opcode a compact encoding of the operation uses (R73); MUL takes the first of its three. RET has none
(R79). -/
def Opcode.rawNumber : Opcode → Option Nat
  | .mul => some 0
  | .add => some 3
  | .sub => some 4
  | .ror => some 5
  | .rol => some 6
  | .xor => some 7
  | .ret => none

/-- The compact bytes of a well-formed operative instruction: raw + 8·dst + 32·src (R71), then C for ADD (R75). -/
def encodeCompact (i : Instr) : Option (List Byte) :=
  match i.opcode.rawNumber with
  | none => none
  | some raw =>
    some (BitVec.ofNat 8 (raw + 8 * i.dst.val + 32 * i.src.val) ::
      (if i.takesConstant then [i.constant] else []))

/-- The syntax of R86, for records whose unused fields are 0. -/
def assembly (i : Instr) : Option String :=
  let operands := " r" ++ toString i.dst.val ++ ", r" ++ toString i.src.val
  match i with
  | .mul _ _ c => if c = 0 then some ("MUL" ++ operands) else none
  | .add _ _ c => some ("ADD" ++ operands ++ ", " ++ toString c.toInt)
  | .sub _ _ c => if c = 0 then some ("SUB" ++ operands) else none
  | .ror _ _ c => if c = 0 then some ("ROR" ++ operands) else none
  | .rol _ _ c => if c = 0 then some ("ROL" ++ operands) else none
  | .xor _ _ c => if c = 0 then some ("XOR" ++ operands) else none
  | .ret _ _ _ => if i = Instr.retRecord then some "RET" else none

/-! ### The opcode table's words -/

/-- The `k`-th byte of a table word, the first byte lowest. -/
def tableByte (w k : Nat) : Byte := BitVec.ofNat 8 (w / 256 ^ k)

/-- The instruction the decoder reads from a table word. A word of one or two bytes is a compact instruction, an
ADD's C being the second byte (0 where the table gives one byte). A word of four bytes is a canonical serialization,
the one form RET has (R79, R80; log 21). -/
def decodeTableWord (nbits w : Nat) : Option Instr :=
  if nbits = 0 ∨ 32 < nbits then none
  else if nbits ≤ 16 then
    match decodeStream [tableByte w 0, tableByte w 1] with
    | .ok (i, _) => some i
    | .error _ => none
  else
    match decodeSerial [tableByte w 0, tableByte w 1, tableByte w 2, tableByte w 3] with
    | .ok (i, _) => some i
    | .error _ => none

end Sys2Proof
end

