-- ==== Sys2Proof/Machine/State.lean ====
section
/-! DEFINITION. The state of one hash computation: Executor, Program buffer, Generator, and what the Host asks for. -/

namespace Sys2Proof.Machine

/-- Why a run stops with a fault. -/
inductive Fault where
  /-- RunOffEnd (R172, R235): the pc has passed the end of a sequence that has no RET. Raised by the Executor's step on
  such a call, when no later call is pending (log 14). Safe: the spec gives the call no result. -/
  | runOffEnd
  deriving DecidableEq, Repr

/-- Why a launch is refused (R235), and the rejection of an instruction without a meaning. -/
inductive Refusal where
  /-- An arm of `exec` without a meaning; no arm uses it. Safe. -/
  | notModelled (mnemonic : String)
  /-- W is neither 32 nor 64 (R9, R235). Raised by every step of such a machine. Safe. -/
  | unsupportedWidth
  /-- The launched computations' buffers are not all distinct (R62, R235, R243; log 17). Raised by every step of such a
  machine. Safe. -/
  | sharedBuffers
  /-- A caller's sequence is longer than PROGRAM_MAX (R235). Raised at the start of execute. Safe. -/
  | programTooLong
  /-- A record of a caller's sequence, not after its first RET, has a field outside its range (R76, R235), and which.
  Raised at the start of execute. Safe. -/
  | malformedRecord (why : DecodeError)
  deriving DecidableEq, Repr

/-- The Executor's run status (R25). -/
inductive Status where
  | running
  | halted
  | faulted (why : Fault)
  deriving DecidableEq, Repr

/-- Who takes the next step (R7): the Host, which invokes the block, or one of the two agents. -/
inductive Agent where
  | host
  | generator
  | executor
  deriving DecidableEq, Repr

/-- The Generator's state, field by field as R29 lists it. -/
structure GenState where
  /-- byte-source buffer (R33) -/
  buf : Bytes32
  /-- index of the next unread byte; 32 when exhausted (R33) -/
  cursor : Fin 33
  /-- latency counters of the variable registers (R30) -/
  lat : Vector Nat 4
  /-- busy table, slot by lane (R31) -/
  busy : Vector (Vector Bool 2) 54
  /-- consecutive placement failures (R32) -/
  fail : Nat
  /-- operative records placed so far (R34) -/
  code : List Instr
  deriving DecidableEq, Repr

/-- A call the Host makes (R8): one of the block's two operations, with its arguments. -/
inductive HostCall (w : Nat) where
  /-- generate(context) (R148, D27). -/
  | generate (context : BitVec 64)
  /-- execute(Prog, x) (R176). `prog`: none for the Program in the buffer, some for a sequence the caller built (R39,
  R182; log 19). `vars`: some to set x[0..3] (R263 duty 4), none to carry them over (R179). `consts`: x[4..7], which
  the Host loads before every call (R263 duty 5; log 18). -/
  | execute (prog : Option (List RawRecord)) (vars : Option (Vector (Word w) 4)) (consts : Vector (Word w) 4)
  deriving DecidableEq, Repr

/-- The Executor's read-only reference to the Program it runs (R170): the computation's Program buffer, or a sequence
that stays the caller's own (R39, R182; log 19). -/
inductive ProgramRef where
  | buffer
  | own (sequence : List Instr)
  deriving DecidableEq, Repr

/-- Which storage a computation's Program buffer, register file and Generator state stand in (R41). The numbers only
tell storage apart, in one numbering for all three kinds: DESIGN CHOICE (log 17). -/
structure Buffers where
  program : Nat
  registers : Nat
  generator : Nat
  deriving DecidableEq, Repr

/-- One instance of the block (R41), with the inputs the Host gives it. -/
structure State where
  /-- W (R9), fixed for the instance: no step writes it -/
  width : Nat
  /-- this computation's storage (R41) -/
  buffers : Buffers
  /-- the storage of the computations that run beside it (R62, R243) -/
  concurrent : List Buffers
  /-- register file x[0..7] (R20) -/
  regs : Vector (Word width) 8
  /-- the Executor's index into the Program (R24) -/
  pc : Nat
  /-- the Executor's run status (R25) -/
  status : Status
  /-- Program buffer (R28): only a generate call writes it (R50, R63) -/
  prog : List Instr
  /-- the Executor's reference to the Program it runs (R170) -/
  ref : ProgramRef
  /-- the Generator's state (R29) -/
  gen : GenState
  /-- who takes the next step (R7, R268) -/
  agent : Agent
  /-- the Host's pending calls, oldest first (R8) -/
  calls : List (HostCall width)
  deriving DecidableEq, Repr

/-- The Generator's state while no generate call runs: nothing of a call survives it (R37). It holds the values R36
gives for the start of generate, with context 0. DESIGN CHOICE (logs 11, 15). -/
def GenState.blank : GenState where
  buf := Vector.replicate 32 0
  cursor := 32
  lat := Vector.replicate 4 0
  busy := Vector.replicate 54 (Vector.replicate 2 false)
  fail := 0
  code := []

/-- The block before any call, at width `w`: the values of R36, no Program, nothing asked for. DESIGN CHOICES, where
the spec gives no value: registers 0 (R38; log 10), the Program reference at the buffer (log 11), the three buffers in
storage 0, 1 and 2 and no computation beside this one (R262; logs 11, 17). -/
def State.resetAt (w : Nat) : State where
  width := w
  buffers := ⟨0, 1, 2⟩
  concurrent := []
  regs := Vector.replicate 8 0
  pc := 0
  status := .running
  prog := []
  ref := .buffer
  gen := GenState.blank
  agent := .host
  calls := []

/-- Reset at the width log 1 names. -/
def State.reset : State := State.resetAt Config.resetWidth

end Sys2Proof.Machine
end

