-- ==== Sys2Proof/Machine/Ops.lean ====
section
/-! DEFINITION. The named operations on the register file, the Executor's state and the launch. There is no exception
entry to write: the block has no traps (R230, R239), and its one fault is entered by `State.runOffEnd`. -/

namespace Sys2Proof.Machine

/-- The place of a variable register in the register file (R81). -/
def varReg (d : Fin 4) : Fin 8 := d.castLE (by decide)

/-- x[r] (R20). -/
def State.readReg (s : State) (r : Fin 8) : Word s.width := s.regs[r]

/-- x[r] as the unsigned number R13 says it is. -/
def State.x (s : State) (r : Fin 8) : Nat := (s.readReg r).toNat

/-- x[d] ← v, for a variable register: the only registers an instruction writes (R81, R175). -/
def State.writeVar (s : State) (d : Fin 4) (v : Word s.width) : State :=
  { s with regs := s.regs.set (varReg d).val v (varReg d).isLt }

/-- pc ← pc + 1 (R172). -/
def State.advance (s : State) : State := { s with pc := s.pc + 1 }

/-- status ← st (R25). -/
def State.setStatus (s : State) (st : Status) : State := { s with status := st }

/-- The next step is `a`'s (R7). -/
def State.setAgent (s : State) (a : Agent) : State := { s with agent := a }

/-- What every operative instruction does with its result: write x[dst], then advance the pc (R172, R175). -/
def State.retire (s : State) (d : Fin 4) (v : Word s.width) : State := (s.writeVar d v).advance

/-- The Program a reference names, where the buffer holds `prog` (R170; log 19). -/
def ProgramRef.select (ref : ProgramRef) (prog : List Instr) : List Instr :=
  match ref with
  | .buffer => prog
  | .own sequence => sequence

/-- Prog as the Executor sees it (R170): the Program buffer's, or the caller's own sequence. -/
def State.program (s : State) : List Instr := s.ref.select s.prog

/-- Fetch (R171): the record Prog[pc]; none exactly when pc ≥ |Prog| (R172). -/
def State.fetch (s : State) : Option Instr := s.program[s.pc]?

/-- raise Fault(RunOffEnd) (R172): the call ends Faulted, with the registers and the pc as they stand (R235). -/
def State.runOffEnd (s : State) : State := s.setStatus (.faulted .runOffEnd)

/-- W ∈ {32, 64} (R9). -/
def State.widthSupported (s : State) : Bool := s.width == 32 || s.width == 64

/-- The storage of one computation's three buffers (R41). -/
def Buffers.names (b : Buffers) : List Nat := [b.program, b.registers, b.generator]

/-- The storage of every computation of the launch, this one's first (R62, R243). A caller's own sequence has no storage
number here, so computations that run one sequence share no buffer by it: DESIGN CHOICE (logs 17, 19). -/
def State.storage (s : State) : List Nat := (s.buffers :: s.concurrent).flatMap Buffers.names

/-- Is some storage used twice (R62, R235, R243)? Every two computations of the launch are compared, two concurrent ones
as well, and a buffer of one kind with a buffer of another: DESIGN CHOICE, as is refusing a computation whose own three
buffers are not distinct (log 17). -/
def State.sharesBuffers (s : State) : Bool := !decide s.storage.Nodup

/-- The state of a machine about to execute the one record `i`, as the start of execute on the caller's sequence [i]
leaves it: pc 0, Running, the Executor's turn (R176, R261; log 12). The Program buffer stands. -/
def State.loadOne (s : State) (i : Instr) : State :=
  { s with ref := .own [i], pc := 0, status := .running, agent := .executor }

end Sys2Proof.Machine
end

