-- ==== Sys2Proof/Machine/Operands.lean ====
section
/-! DEFINITION. The three operand forms of a canonical instruction (R82). -/

namespace Sys2Proof.Machine

/-- The first operand: x[dst] (R82). -/
def dstValue (s : State) (dst : Fin 4) : Word s.width := s.readReg (varReg dst)

/-- The second operand: x[src] (R82). -/
def srcValue (s : State) (src : Fin 8) : Word s.width := s.readReg src

/-- sext_W(C), ADD's third operand: C as two's complement, sign-extended to W bits (R82, R192, D7). -/
def constantValue (w : Nat) (c : Byte) : Word w := c.signExtend w

end Sys2Proof.Machine
end

