-- ==== Sys2Proof/Machine/Arith.lean ====
section
/-! DEFINITION. MUL, ADD and SUB (43_arith.md): results modulo 2^W, no flag, no exception (R190). -/

namespace Sys2Proof.Machine

/-- MulResult (R191): the low W bits of the product. -/
def mulResult {w : Nat} (a b : Word w) : Word w := a * b

/-- AddResult (R192). -/
def addResult {w : Nat} (a b : Word w) (c : Byte) : Word w := a + b + constantValue w c

/-- SubResult (R193). -/
def subResult {w : Nat} (a b : Word w) : Word w := a - b

/-- MUL (R191). Both operands are read before the write (R174). -/
def execMul (dst : Fin 4) (src : Fin 8) (s : State) : Host.Outcome State Fault Refusal :=
  .next (s.retire dst (mulResult (dstValue s dst) (srcValue s src)))

/-- ADD (R192). -/
def execAdd (dst : Fin 4) (src : Fin 8) (c : Byte) (s : State) : Host.Outcome State Fault Refusal :=
  .next (s.retire dst (addResult (dstValue s dst) (srcValue s src) c))

/-- SUB (R193). With src = dst, which the Generator never emits, it gives 0 (R182). -/
def execSub (dst : Fin 4) (src : Fin 8) (s : State) : Host.Outcome State Fault Refusal :=
  .next (s.retire dst (subResult (dstValue s dst) (srcValue s src)))

end Sys2Proof.Machine
end

