-- ==== Sys2Proof/Machine/Bitwise.lean ====
section
/-! DEFINITION. ROR, ROL and XOR (44_bitwise_rotate.md). -/

namespace Sys2Proof.Machine

/-- rotr_W(a, n) for n < W (R15, D24; log 9). -/
def rotr {w : Nat} (a : Word w) (n : Nat) : Word w :=
  if n = 0 then a else (a >>> n) ||| (a <<< (w - n))

/-- rotl_W(a, n) for n < W (R15, D24; log 9). -/
def rotl {w : Nat} (a : Word w) (n : Nat) : Word w :=
  if n = 0 then a else (a <<< n) ||| (a >>> (w - n))

/-- The rotation amount: the whole of x[src], mod W (R213). -/
def rotateAmount {w : Nat} (b : Word w) : Nat := b.toNat % w

/-- RorResult (R210). -/
def rorResult {w : Nat} (a b : Word w) : Word w := rotr a (rotateAmount b)

/-- RolResult (R211). -/
def rolResult {w : Nat} (a b : Word w) : Word w := rotl a (rotateAmount b)

/-- XorResult (R212). -/
def xorResult {w : Nat} (a b : Word w) : Word w := a ^^^ b

/-- ROR (R210). With dst = src the amount is the old x[dst] (R174). -/
def execRor (dst : Fin 4) (src : Fin 8) (s : State) : Host.Outcome State Fault Refusal :=
  .next (s.retire dst (rorResult (dstValue s dst) (srcValue s src)))

/-- ROL (R211). -/
def execRol (dst : Fin 4) (src : Fin 8) (s : State) : Host.Outcome State Fault Refusal :=
  .next (s.retire dst (rolResult (dstValue s dst) (srcValue s src)))

/-- XOR (R212). With src = dst, which the Generator never emits, it gives 0 (R182). -/
def execXor (dst : Fin 4) (src : Fin 8) (s : State) : Host.Outcome State Fault Refusal :=
  .next (s.retire dst (xorResult (dstValue s dst) (srcValue s src)))

end Sys2Proof.Machine
end

