-- ==== Sys2Proof/Machine/Control.lean ====
section
/-! DEFINITION. RET, the one control instruction (R173). -/

namespace Sys2Proof.Machine

/-- RET (R173): status ← Halted. No register is written, the pc stays, and the record's fields are not read. -/
def execRet (s : State) : Host.Outcome State Fault Refusal := .next (s.setStatus .halted)

end Sys2Proof.Machine
end

