-- ==== Sys2Proof/Machine/Dispatch.lean ====
section
/-! DEFINITION. The case analysis of R172: one arm per canonical opcode. C is passed to ADD alone (R182). -/

namespace Sys2Proof.Machine

def exec (i : Instr) (s : State) : Host.Outcome State Fault Refusal :=
  match i with
  | .mul dst src _ => Sys2Proof.Machine.execMul dst src s
  | .add dst src c => Sys2Proof.Machine.execAdd dst src c s
  | .sub dst src _ => Sys2Proof.Machine.execSub dst src s
  | .ror dst src _ => Sys2Proof.Machine.execRor dst src s
  | .rol dst src _ => Sys2Proof.Machine.execRol dst src s
  | .xor dst src _ => Sys2Proof.Machine.execXor dst src s
  | .ret _ _ _ => Sys2Proof.Machine.execRet s

end Sys2Proof.Machine
end

