-- ==== Sys2Proof/Machine/Executor.lean ====
section
/-! DEFINITION. The Executor's step (R172), and one instruction's effect on the register file alone. -/

namespace Sys2Proof.Machine

/-- ExecStep (R172) while Running; a finished call gives the turn back to the Host. A faulted call cannot continue
(R236): with no later call to serve, the machine stops with the fault (log 14). -/
def executorStep (s : State) : Host.Outcome State Fault Refusal :=
  match s.status with
  | .running =>
    match s.fetch with
    | some i => exec i s
    | none => .next s.runOffEnd
  | .halted => .next (s.setAgent .host)
  | .faulted r => if s.calls.isEmpty then .fault r else .next (s.setAgent .host)

/-- The register file after one instruction, as a function of the register file before it (R172): folded over a
Program's operative records it is execute's result (R176, R181). -/
def applyInstr {w : Nat} (x : Vector (Word w) 8) (i : Instr) : Vector (Word w) 8 :=
  let put (d : Fin 4) (v : Word w) := x.set (varReg d).val v (varReg d).isLt
  match i with
  | .mul d r _ => put d (mulResult x[varReg d] x[r])
  | .add d r c => put d (addResult x[varReg d] x[r] c)
  | .sub d r _ => put d (subResult x[varReg d] x[r])
  | .ror d r _ => put d (rorResult x[varReg d] x[r])
  | .rol d r _ => put d (rolResult x[varReg d] x[r])
  | .xor d r _ => put d (xorResult x[varReg d] x[r])
  | .ret _ _ _ => x

end Sys2Proof.Machine
end

