-- ==== Sys2Proof/Machine/ByteSource.lean ====
section
/-! DEFINITION. The byte source (R100-R103): seed, NextByte, FetchC. Refill is an argument (R10). -/

namespace Sys2Proof.Machine

/-- The seed buffer of a context: its bytes least significant first, then 24 zeros (R52, R102; D4, log 6). -/
def seed (context : BitVec 64) : Bytes32 :=
  Vector.ofFn fun i => if i.val < 8 then context.extractLsb' (8 * i.val) 8 else 0

/-- The Generator at the start of generate(context) (R36, R260). The cursor is exhausted, so the first NextByte
refills (R102; D5, log 6). -/
def GenState.start (context : BitVec 64) : GenState :=
  { GenState.blank with buf := seed context }

/-- NextByte (R101): an exhausted buffer is refilled whole, in the read that needs the byte. -/
def nextByte (refill : Bytes32 → Bytes32) (g : GenState) : Byte × GenState :=
  if h : g.cursor.val < 32 then
    (g.buf[g.cursor.val], { g with cursor := ⟨g.cursor.val + 1, by omega⟩ })
  else
    ((refill g.buf)[0], { g with buf := refill g.buf, cursor := 1 })

/-- The first `n` bytes that successive NextByte calls return, and the state after them. -/
def nextBytes (refill : Bytes32 → Bytes32) : Nat → GenState → List Byte × GenState
  | 0, g => ([], g)
  | n + 1, g =>
    let (b, g') := nextByte refill g
    let (bs, g'') := nextBytes refill n g'
    (b :: bs, g'')

/-- The constant of a record being placed: a fetched byte for ADD (FetchC, R107), 0 for the others (R137, D8). -/
def fetchConstant (refill : Bytes32 → Bytes32) (i : Instr) (g : GenState) : Byte × GenState :=
  if i.takesConstant then nextByte refill g else (0, g)

/-- stream(k) of R103: byte k mod 32 of the seed refilled ⌊k / 32⌋ + 1 times. -/
def stream (refill : Bytes32 → Bytes32) (context : BitVec 64) (k : Nat) : Byte :=
  (refill^[k / 32 + 1] (seed context))[k % 32]'(Nat.mod_lt k (by decide))

end Sys2Proof.Machine
end

