-- ==== Sys2Proof/Machine/Scheduler.lean ====
section
/-! DEFINITION. The dual-ALU scheduler (R130-R138): readiness, slot search, placement and failure. -/

namespace Sys2Proof.Machine

/-- lat(r) (R131): the counter of a variable register; 0 for a constant register (D3, log 7). -/
def readiness (lat : Vector Nat 4) (r : Fin 8) : Nat :=
  if h : r.val < 4 then lat[r.val] else 0

/-- LAT(op) (R132). RET is never scheduled: its lane list is empty, so the 0 here is never used (log 22). -/
def latency : Instr → Nat
  | .mul _ _ _ => Config.latMul
  | .add _ _ _ | .sub _ _ _ | .ror _ _ _ | .rol _ _ _ | .xor _ _ _ => Config.latOther
  | .ret _ _ _ => 0

/-- NALU(op) (R133): how many lanes the operation may use; none for RET, which is never scheduled (log 22). -/
def laneCount : Instr → Nat
  | .mul _ _ _ => Config.aluCountMul
  | .add _ _ _ | .sub _ _ _ | .ror _ _ _ | .rol _ _ _ | .xor _ _ _ => Config.aluCount
  | .ret _ _ _ => 0

/-- The lanes Search tries, in its order: indices NALU(op) − 1 down to 0 (R133, R135; D11, log 7). -/
def lanes (i : Instr) : List (Fin 2) := (List.finRange 2).reverse.filter fun l => decide (l.val < laneCount i)

/-- s0 = max(lat(dst), lat(src)) (R134). -/
def startSlot (lat : Vector Nat 4) (i : Instr) : Nat :=
  max lat[i.dst] (readiness lat i.src)

/-- The first free lane of a slot, in Search's order (R135). -/
def freeLane (busy : Vector (Vector Bool 2) 54) (i : Instr) (s : Fin 54) : Option (Fin 2) :=
  (lanes i).find? fun l => !busy[s][l]

/-- Search(op, s0) (R135): the earliest slot from s0 on with a free lane the operation may use, and that lane. -/
def search (busy : Vector (Vector Bool 2) 54) (i : Instr) (s0 : Nat) : Option (Fin 54 × Fin 2) :=
  (List.finRange 54).findSome? fun s =>
    if s0 ≤ s.val then (freeLane busy i s).map fun l => (s, l) else none

/-- The cell the instruction is placed in, if it is placed (R136): a cell was found and the instruction completes
within the budget. The search does not go on past a cell that completes too late. -/
def placement (g : GenState) (i : Instr) : Option (Fin 54 × Fin 2) :=
  match search g.busy i (startSlot g.lat i) with
  | some (s, l) => if s.val + latency i ≤ Config.totalLatency then some (s, l) else none
  | none => none

/-- busy[s][l] ← true (R137). -/
def markBusy (busy : Vector (Vector Bool 2) 54) (s : Fin 54) (l : Fin 2) : Vector (Vector Bool 2) 54 :=
  busy.set s.val (busy[s].set l.val true l.isLt) s.isLt

/-- Placement at (s, l) (R137): the cell is marked, the destination's counter set, ADD's C fetched, the record
appended and the failure counter cleared. -/
def place (refill : Bytes32 → Bytes32) (i : Instr) (s : Fin 54) (l : Fin 2) (g : GenState) : GenState :=
  let (c, g') := fetchConstant refill i g
  { g' with
    busy := markBusy g.busy s l
    lat := g.lat.set i.dst.val (s.val + latency i) i.dst.isLt
    code := g.code ++ [i.withConstant c]
    fail := 0 }

/-- Placement failure (R138): fail ← fail + 1 and nothing else. -/
def placementFailure (g : GenState) : GenState := { g with fail := g.fail + 1 }

end Sys2Proof.Machine
end

