-- ==== Sys2Proof/Machine/Generator.lean ====
section
/-! DEFINITION. The program generator (R139-R148): one decode attempt, termination, and generate. -/

namespace Sys2Proof.Machine

/-- Step() of R140: NextByte, Decode, Search, then placement or failure, in exactly this order (R110, R274). -/
def attempt (refill : Bytes32 → Bytes32) (g : GenState) : GenState :=
  let (b, g') := nextByte refill g
  let i := decodeByte b
  match placement g' i with
  | some (s, l) => place refill i s l g'
  | none => placementFailure g'

/-- Terminated (R139). The second disjunct is the one that ends every call (R144); the third is the capacity guard
(D9, log 23). -/
def terminated (g : GenState) : Bool :=
  g.lat.toList.all (· == Config.totalLatency) || g.fail == Config.retryCap || g.code.length == Config.capacity

/-- The Program a terminated Generator returns: code ++ [RET] (R141). -/
def finishedProgram (g : GenState) : List Instr := g.code ++ [Instr.retRecord]

/-- At most `n` decode attempts, stopping when Terminated holds: it is tested before each (R140, D9). -/
def attempts (refill : Bytes32 → Bytes32) : Nat → GenState → GenState
  | 0, g => g
  | n + 1, g => if terminated g then g else attempts refill n (attempt refill g)

/-- generate(context) of R148 as one function. The bound on the loop is R145's. -/
def generate (refill : Bytes32 → Bytes32) (context : BitVec 64) : List Instr :=
  finishedProgram (attempts refill Config.maxAttempts (GenState.start context))

/-- The Generator's step of the machine (R140, R141): stop and return the Program, or one attempt. When it stops,
its state is discarded (R37, R148; log 15) and the Host takes over. -/
def generatorStep (s : State) : Host.Outcome State Fault Refusal :=
  if terminated s.gen then
    .next { s with prog := finishedProgram s.gen, gen := GenState.blank, agent := .host }
  else
    .next { s with gen := attempt Config.refill s.gen }

end Sys2Proof.Machine
end

