-- ==== Sys2Proof/Machine/HostCalls.lean ====
section
/-! DEFINITION. The start of the Host's two calls (R8, R260, R261) and the refusals of a launch (R235). -/

namespace Sys2Proof.Machine

/-- The Program an execute call refers to: the buffer's, or the caller's own sequence, refused when it is too long or
a record not after its first RET is malformed (R39, R235; log 19). -/
def launchProgram : Option (List RawRecord) → Except Refusal ProgramRef
  | none => .ok .buffer
  | some raw =>
    if Config.programMax < raw.length then .error .programTooLong
    else
      match decodeRecords raw with
      | .ok p => .ok (.own p)
      | .error e => .error (.malformedRecord e)

/-- The register file an execute call starts with: x[0..3] the Host's, or carried over (R179); x[4..7] the Host's
(R22, R263; log 18). -/
def launchRegs {w : Nat} (x : Vector (Word w) 8) (vars : Option (Vector (Word w) 4)) (consts : Vector (Word w) 4) :
    Vector (Word w) 8 :=
  (match vars with
    | some v => #v[v[0], v[1], v[2], v[3]]
    | none => #v[x[0], x[1], x[2], x[3]]) ++ #v[consts[0], consts[1], consts[2], consts[3]]

/-- The start of a call. generate sets the whole Generator state and empties the Program buffer (R36, R260); execute
sets pc ← 0 and status ← Running on the Host's register file and writes no Program buffer (R63, R176, R261). -/
def startCall (s : State) : HostCall s.width → Host.Outcome State Fault Refusal
  | .generate context =>
    .next { s with gen := GenState.start context, prog := [], agent := .generator }
  | .execute prog vars consts =>
    match launchProgram prog with
    | .error r => .refused r
    | .ok ref =>
      .next { s with
        ref := ref
        regs := launchRegs s.regs vars consts
        pc := 0
        status := .running
        agent := .executor }

/-- The Host's turn: its oldest call starts. With no call the block waits, unchanged (log 13). -/
def hostStep (s : State) : Host.Outcome State Fault Refusal :=
  match s.calls with
  | [] => .next s
  | c :: rest => startCall { s with calls := rest } c

end Sys2Proof.Machine
end

