-- ==== Sys2Proof/Machine/Cycle.lean ====
section
/-! DEFINITION. One step of the block: a launch without a meaning is refused, else the agent whose turn it is steps. -/

namespace Sys2Proof.Machine

/-- One step. A refused launch has no steps (R235): an unsupported W, or buffers
that are not all distinct. Otherwise exactly one agent steps (R7, R268). -/
def cycle (s : State) : Host.Outcome State Fault Refusal :=
  if !s.widthSupported then .refused .unsupportedWidth
  else if s.sharesBuffers then .refused .sharedBuffers
  else
    match s.agent with
    | .host => hostStep s
    | .generator => generatorStep s
    | .executor => executorStep s

/-- The state in which the very next step runs the decoded table word; unchanged where the decoder refuses it
(log 12, log 21). -/
def loadTableWord (s : State) (nbits w : Nat) : State :=
  match decodeTableWord nbits w with
  | some i => s.loadOne i
  | none => s

end Sys2Proof.Machine
end

