-- ==== Sys2Proof/Safety.lean ====
section
/-! DEFINITION. The terms claims use: what an instruction may write, which machines run at all, the invariants. -/

namespace Sys2Proof.Machine

/-- `t` is `s` but for x[d] and the pc: what an operative instruction may change (R175). -/
def OnlyWrites (s t : State) (d : Fin 4) : Prop :=
  (∃ regs pc, t = { s with regs := regs, pc := pc }) ∧ ∀ r : Fin 8, r ≠ varReg d → t.x r = s.x r

/-- The launch is one the block gives a meaning to: W is 32 or 64, and no storage is used twice (R235; log 17). -/
def State.Launchable (s : State) : Prop :=
  (s.width = 32 ∨ s.width = 64) ∧ s.storage.Nodup

/-- The Executor is about to fetch: a launchable machine, the Executor's turn, Running. -/
def State.Executing (s : State) : Prop :=
  s.Launchable ∧ s.agent = .executor ∧ s.status = .running

/-- `n` steps of the machine, stopping at the first fault or refusal. -/
abbrev run (n : Nat) (s : State) : Host.Outcome State Fault Refusal := Host.Core.run core n s

/-- The field ranges of R76. -/
def InRange (r : RawRecord) : Prop :=
  r.op ≤ 6 ∧ r.dst ≤ 3 ∧ r.src ≤ 7 ∧ -128 ≤ r.c ∧ r.c ≤ 127

/-- How many cells of the busy table are occupied. -/
def busyCount (busy : Vector (Vector Bool 2) 54) : Nat :=
  (busy.toList.map fun lanes => lanes.toList.count true).sum

/-- How many variable registers have reached TOTAL_LATENCY. -/
def completedCount (lat : Vector Nat 4) : Nat := lat.toList.count 54

/-- How many of the three cells that can complete at slot 54 are occupied: (51, lane 0) for a MUL, (53, lane 0) and
(53, lane 1) for the others (R144). -/
def lastCellCount (busy : Vector (Vector Bool 2) 54) : Nat :=
  busy[51][0].toNat + busy[53][0].toNat + busy[53][1].toNat

/-- What holds of the Generator's state throughout a call: the ranges of R30, R32 and R34, one busy cell for each
placed record (R142), the records well formed (R40), and R144's count. -/
structure GenState.Inv (g : GenState) : Prop where
  lat_le : ∀ r : Fin 4, g.lat[r] ≤ 54
  fail_le : g.fail ≤ 64
  code_busy : g.code.length = busyCount g.busy
  code_wf : ∀ i ∈ g.code, i.wellFormed = true ∧ i.isRet = false
  completed_le : completedCount g.lat ≤ lastCellCount g.busy

/-- What holds of the machine between steps. -/
structure State.Inv (s : State) : Prop where
  /-- the Program fits its buffer (R28) -/
  prog_le : s.prog.length ≤ 110
  /-- so does a caller's own sequence (R235) -/
  program_le : s.program.length ≤ 110
  /-- the pc never passes |Prog| (R24) -/
  pc_le : s.agent = .executor → s.pc ≤ s.program.length
  /-- Halted only at a RET, whose index the pc keeps (R25, R173) -/
  halted_at_ret : s.agent = .executor → s.status = .halted → ∃ i, s.program[s.pc]? = some i ∧ i.isRet = true
  /-- Faulted only past the end, with pc = |Prog| (R235) -/
  faulted_at_end : ∀ r, s.agent = .executor → s.status = .faulted r → s.pc = s.program.length
  /-- the Generator's own invariant -/
  gen_inv : s.gen.Inv
  /-- no generator state outlives its call (R37) -/
  gen_blank : s.agent ≠ .generator → s.gen = GenState.blank

end Sys2Proof.Machine
end

