-- ==== Sys2Proof/Certificates/Slice0/Obligations.lean ====
section
/-! DEFINITION. The statements for the provers. Each docstring names the rules of spec/ it formalises, and what in it
is a choice of the spec (D<n>) or of the model (log <n>). -/

open Sys2Proof Sys2Proof.Machine

/-! ### The seven instructions -/

/-- R191. MUL leaves the product modulo 2^W in x[dst] and changes no other register; a compact byte of raw 0, 1 or 2
is a MUL; its canonical record is (0, dst, src, 0); it has latency 3 and lane 0 alone. -/
def Obligations.MulProductModWidth : Prop :=
  (∀ (s : State) (d : Fin 4) (r : Fin 8) (c : Byte), ∃ t, exec (.mul d r c) s = .next t ∧
    t.x (varReg d) = s.x (varReg d) * s.x r % 2 ^ s.width ∧ OnlyWrites s t d) ∧
  (∀ b, (rawField b).val ≤ 2 → decodeByte b = .mul (dstField b) (srcField b) 0) ∧
  (∀ d r, Instr.raw (.mul d r 0) = ⟨0, d.val, r.val, 0⟩) ∧
  (∀ d r c, latency (.mul d r c) = 3 ∧ lanes (.mul d r c) = [0])

/-- R192. ADD leaves x[dst] + x[src] + C modulo 2^W in x[dst] and changes no other register, C as a signed number (the
byte that holds it is two's complement, the spec's choice D7, log 8, PRESUMED); raw 3 is an ADD, whose C is the next
stream byte when it is placed; its canonical record is (1, dst, src, C), its number the spec's choice D2 (log 8);
latency 1, lanes 1 then 0, in the order of the spec's choice D11 (log 7). -/
def Obligations.AddSumModWidth : Prop :=
  (∀ (s : State) (d : Fin 4) (r : Fin 8) (c : Byte), ∃ t, exec (.add d r c) s = .next t ∧
    (t.x (varReg d) : Int) = ((s.x (varReg d) : Int) + s.x r + c.toInt) % 2 ^ s.width ∧ OnlyWrites s t d) ∧
  (∀ b c rest, (rawField b).val = 3 → decodeByte b = .add (dstField b) (srcField b) 0 ∧
    decodeStream (b :: c :: rest) = .ok (.add (dstField b) (srcField b) c, rest)) ∧
  (∀ d r c, Instr.raw (.add d r c) = ⟨1, d.val, r.val, c.toInt⟩) ∧
  (∀ d r c, latency (.add d r c) = 1 ∧ lanes (.add d r c) = [1, 0])

/-- R193. SUB leaves x[dst] − x[src] modulo 2^W in x[dst] and changes no other register; raw 4 is a SUB, whose source
becomes dst + 4 when its src field is dst; its canonical record is (2, dst, src, 0); latency 1, lanes 1 then 0. -/
def Obligations.SubDifferenceModWidth : Prop :=
  (∀ (s : State) (d : Fin 4) (r : Fin 8) (c : Byte), ∃ t, exec (.sub d r c) s = .next t ∧
    (t.x (varReg d) : Int) = ((s.x (varReg d) : Int) - s.x r) % 2 ^ s.width ∧ OnlyWrites s t d) ∧
  (∀ b, (rawField b).val = 4 → decodeByte b = .sub (dstField b)
    (if (srcField b).val = (dstField b).val then ⟨(dstField b).val + 4, by omega⟩ else srcField b) 0) ∧
  (∀ d r, Instr.raw (.sub d r 0) = ⟨2, d.val, r.val, 0⟩) ∧
  (∀ d r c, latency (.sub d r c) = 1 ∧ lanes (.sub d r c) = [1, 0])

/-- R210, with the formula of R15, which the spec takes from general knowledge (D24, log 9). ROR leaves x[dst] rotated
right by x[src] mod W; raw 5 is a ROR; its canonical record is (3, dst, src, 0); latency 1, lanes 1 then 0. -/
def Obligations.RorRotatesRight : Prop :=
  (∀ (s : State) (d : Fin 4) (r : Fin 8) (c : Byte), ∃ t, exec (.ror d r c) s = .next t ∧
    (let n := s.x r % s.width
     t.x (varReg d) = ((s.x (varReg d) >>> n) ||| (s.x (varReg d) <<< (s.width - n))) % 2 ^ s.width) ∧
    OnlyWrites s t d) ∧
  (∀ b, (rawField b).val = 5 → decodeByte b = .ror (dstField b) (srcField b) 0) ∧
  (∀ d r, Instr.raw (.ror d r 0) = ⟨3, d.val, r.val, 0⟩) ∧
  (∀ d r c, latency (.ror d r c) = 1 ∧ lanes (.ror d r c) = [1, 0])

/-- R211, with the formula of R15, which the spec takes from general knowledge (D24, log 9). ROL leaves x[dst] rotated
left by x[src] mod W; raw 6 is a ROL; its canonical record is (4, dst, src, 0); latency 1, lanes 1 then 0. -/
def Obligations.RolRotatesLeft : Prop :=
  (∀ (s : State) (d : Fin 4) (r : Fin 8) (c : Byte), ∃ t, exec (.rol d r c) s = .next t ∧
    (let n := s.x r % s.width
     t.x (varReg d) = ((s.x (varReg d) <<< n) ||| (s.x (varReg d) >>> (s.width - n))) % 2 ^ s.width) ∧
    OnlyWrites s t d) ∧
  (∀ b, (rawField b).val = 6 → decodeByte b = .rol (dstField b) (srcField b) 0) ∧
  (∀ d r, Instr.raw (.rol d r 0) = ⟨4, d.val, r.val, 0⟩) ∧
  (∀ d r c, latency (.rol d r c) = 1 ∧ lanes (.rol d r c) = [1, 0])

/-- R212. XOR leaves the bitwise exclusive or in x[dst] and changes no other register; raw 7 is a XOR, whose source
becomes dst + 4 when its src field is dst; its canonical record is (5, dst, src, 0); latency 1, lanes 1 then 0. -/
def Obligations.XorBitwise : Prop :=
  (∀ (s : State) (d : Fin 4) (r : Fin 8) (c : Byte), ∃ t, exec (.xor d r c) s = .next t ∧
    t.x (varReg d) = s.x (varReg d) ^^^ s.x r ∧ OnlyWrites s t d) ∧
  (∀ b, (rawField b).val = 7 → decodeByte b = .xor (dstField b)
    (if (srcField b).val = (dstField b).val then ⟨(dstField b).val + 4, by omega⟩ else srcField b) 0) ∧
  (∀ d r, Instr.raw (.xor d r 0) = ⟨5, d.val, r.val, 0⟩) ∧
  (∀ d r c, latency (.xor d r c) = 1 ∧ lanes (.xor d r c) = [1, 0])

/-- R173. RET halts and changes nothing else, whatever its fields (R182, D13); no compact byte is a RET; the record
the Generator appends is (6, 0, 0, 0) (D2, D8). -/
def Obligations.RetOnlyHalts : Prop :=
  (∀ (s : State) (d : Fin 4) (r : Fin 8) (c : Byte), exec (.ret d r c) s = .next { s with status := .halted }) ∧
  (∀ b, (decodeByte b).isRet = false) ∧
  Instr.retRecord.raw = ⟨6, 0, 0, 0⟩

/-- R175. An operative instruction writes x[dst] alone, and dst is 0 to 3: every other register, the constant ones
among them, and all the rest of the state but the pc is unchanged. -/
def Obligations.OperativeWritesOneRegister : Prop :=
  ∀ (i : Instr) (s t : State), i.isRet = false → exec i s = .next t →
    OnlyWrites s t i.dst ∧ (varReg i.dst).val ≤ 3 ∧ ∀ r : Fin 8, 4 ≤ r.val → t.x r = s.x r

/-- R24, R172 (the pc is the spec's choice D23, log 24). An operative instruction advances the pc by 1 and keeps the
status; RET keeps the pc and every register. -/
def Obligations.PcAdvancesUnlessRet : Prop :=
  ∀ (i : Instr) (s t : State), exec i s = .next t →
    (i.isRet = false → t.pc = s.pc + 1 ∧ t.status = s.status) ∧
    (i.isRet = true → t.pc = s.pc ∧ ∀ r, t.x r = s.x r)

/-- R182 (D13, log 4). A record generate never emits has a meaning: C is ignored outside ADD, RET's fields are
ignored, and SUB and XOR with src = dst leave 0. -/
def Obligations.NeverGeneratedRecordsExecute : Prop :=
  (∀ (i : Instr) (c : Byte) (s : State), i.opcode ≠ .add → exec (i.withConstant c) s = exec i s) ∧
  (∀ (i j : Instr) (s : State), i.isRet = true → j.isRet = true → exec i s = exec j s) ∧
  (∀ (s : State) (d : Fin 4) (c : Byte),
    (∃ t, exec (.sub d (varReg d) c) s = .next t ∧ t.x (varReg d) = 0) ∧
    (∃ t, exec (.xor d (varReg d) c) s = .next t ∧ t.x (varReg d) = 0))

/-- R210, R211 by bits: after ROR by n = x[src] mod W, bit k of x[dst] is its old bit (k + n) mod W; after ROL, its old
bit k moved to (k + n) mod W. So ROL by n is ROR by (W − n) mod W. The rotations themselves are the spec's choice D24
(log 9). -/
def Obligations.RotationMovesBits : Prop :=
  ∀ (s : State) (d : Fin 4) (r : Fin 8) (c : Byte), ∃ t u,
    exec (.ror d r c) s = .next t ∧ exec (.rol d r c) s = .next u ∧
    ∀ k < s.width,
      (t.x (varReg d)).testBit k = (s.x (varReg d)).testBit ((k + s.x r % s.width) % s.width) ∧
      (u.x (varReg d)).testBit ((k + s.x r % s.width) % s.width) = (s.x (varReg d)).testBit k

/-- R210, R211, R213. The amount is x[src] reduced mod W and no field of the instruction: ROR, and ROL, on the same
x[dst] in two states of one width leave the same x[dst] whichever source registers and C they name, as long as those
registers agree mod W; and an amount ≡ 0 (mod W) leaves every register unchanged. What a rotation by another amount
leaves is RotationMovesBits (D24, log 9). -/
def Obligations.RotationAmountModWidth : Prop :=
  (∀ (s t : State) (d d' : Fin 4) (r r' : Fin 8) (c c' : Byte), s.width = t.width →
    s.x (varReg d) = t.x (varReg d') → s.x r % s.width = t.x r' % t.width →
    (∃ s' t', exec (.ror d r c) s = .next s' ∧ exec (.ror d' r' c') t = .next t' ∧
      s'.x (varReg d) = t'.x (varReg d')) ∧
    (∃ s' t', exec (.rol d r c) s = .next s' ∧ exec (.rol d' r' c') t = .next t' ∧
      s'.x (varReg d) = t'.x (varReg d'))) ∧
  (∀ (s : State) (d : Fin 4) (r : Fin 8) (c : Byte), s.x r % s.width = 0 →
    (∃ t, exec (.ror d r c) s = .next t ∧ ∀ q, t.x q = s.x q) ∧
    (∃ t, exec (.rol d r c) s = .next t ∧ ∀ q, t.x q = s.x q))

/-- R74, R231. No instruction is illegal: every stream byte decodes, never to RET, and every record executes. -/
def Obligations.EveryByteDecodesEveryRecordExecutes : Prop :=
  (∀ (b c : Byte) (rest : List Byte), ∃ i rest', decodeStream (b :: c :: rest) = .ok (i, rest') ∧ i.isRet = false) ∧
  (∀ (i : Instr) (s : State), ∃ t, exec i s = .next t)

/-- R35, R170. The Executor never reads the Generator's state: an instruction answers the same whatever it is. -/
def Obligations.ExecutorIgnoresGenerator : Prop :=
  ∀ (i : Instr) (s t : State) (g : GenState), exec i s = .next t →
    exec i { s with gen := g } = .next { t with gen := g }

/-! ### The Executor -/

/-- R170, R171, R172. A step of a Running Executor is the meaning of the record at the pc of the Program it refers to,
with nothing around it: of the Program buffer's, or of a caller's own sequence. That the launch is supported (R235),
that the turn is a field of the state and that the reference is one are the model's (logs 11, 17, 19). -/
def Obligations.StepRunsFetchedInstruction : Prop :=
  (∀ (s : State) (i : Instr), s.Executing → s.ref = .buffer → s.prog[s.pc]? = some i → step s = exec i s) ∧
  (∀ (s : State) (p : List Instr) (i : Instr), s.Executing → s.ref = .own p → p[s.pc]? = some i → step s = exec i s)

/-- R172, R235 (D12, log 14). Past the end of the Program the call becomes Faulted(RunOffEnd), with the registers and
the pc as they stand. -/
def Obligations.RunOffEndFaults : Prop :=
  ∀ s : State, s.Executing → s.program.length ≤ s.pc → step s = .next { s with status := .faulted .runOffEnd }

/-- R25, R236 (D12; log 14, log 16). A halted call gives the turn back to the Host; a faulted one does so if the Host
has a later call, and otherwise the machine stops with the fault. -/
def Obligations.FinishedCallReturnsOrFaults : Prop :=
  ∀ s : State, s.Launchable → s.agent = .executor →
    (s.status = .halted → step s = .next { s with agent := .host }) ∧
    (∀ r, s.status = .faulted r → s.calls = [] → step s = .fault r) ∧
    (∀ r, s.status = .faulted r → s.calls ≠ [] → step s = .next { s with agent := .host })

/-- R176, R178. With its first RET at index k, the Executor is Running before each of k + 1 steps and Halted after
them, at pc = k, with the register file its first k records leave one after another; nothing else has changed. -/
def Obligations.ExecuteRunsToFirstRet : Prop :=
  ∀ (s : State) (body tail : List Instr) (i : Instr), s.Executing → s.pc = 0 → s.program = body ++ i :: tail →
    (∀ j ∈ body, j.isRet = false) → i.isRet = true →
    (∀ n ≤ body.length, ∃ t, run n s = .next t ∧ t.status = .running) ∧
    run (body.length + 1) s =
      .next { s with regs := body.foldl applyInstr s.regs, pc := body.length, status := .halted }

/-- R176, R235 (D12, log 14). A sequence with no RET ends Faulted(RunOffEnd) at pc = |Prog|, with the register file its
last record left. -/
def Obligations.ExecuteWithoutRetFaults : Prop :=
  ∀ s : State, s.Executing → s.pc = 0 → (∀ j ∈ s.program, j.isRet = false) →
    run (s.program.length + 1) s =
      .next { s with
        regs := s.program.foldl applyInstr s.regs, pc := s.program.length, status := .faulted .runOffEnd }

/-- R177. Two sequences that agree up to and including their first RET behave alike on every register file, from the
buffer or as the caller's own; and two raw sequences of a caller that agree up to a RET start the same call, whatever
values the entries after it hold (each at most 110 entries long, R235). -/
def Obligations.RecordsAfterRetIrrelevant : Prop :=
  (∀ (s t : State) (prog' : List Instr) (ref' : ProgramRef) (body tail tail' : List Instr) (i : Instr) (n : Nat),
    s.Executing → s.pc = 0 → s.program = body ++ i :: tail →
    ({ s with prog := prog', ref := ref' } : State).program = body ++ i :: tail' →
    (∀ j ∈ body, j.isRet = false) → i.isRet = true → n ≤ body.length + 1 → run n s = .next t →
    run n { s with prog := prog', ref := ref' } = .next { t with prog := prog', ref := ref' }) ∧
  (∀ (s : State) (body tail tail' : List RawRecord) (r : RawRecord) (vars : Option (Vector (Word s.width) 4))
    (consts : Vector (Word s.width) 4) (rest : List (HostCall s.width)), s.agent = .host →
    s.calls = .execute (some (body ++ r :: tail)) vars consts :: rest → r.op = 6 →
    (body ++ r :: tail).length ≤ 110 → (body ++ r :: tail').length ≤ 110 →
    step { s with calls := .execute (some (body ++ r :: tail')) vars consts :: rest } = step s)

/-! ### The Host's calls -/

/-- R148, R260 (the values are R36's, among them the spec's choices D4, D5, D32). A generate call empties the Program
buffer and starts the Generator; the rest of the state stands. -/
def Obligations.GenerateCallStarts : Prop :=
  (∀ (s : State) (context : BitVec 64) (rest : List (HostCall s.width)), s.Launchable → s.agent = .host →
    s.calls = .generate context :: rest →
    step s = .next { s with
      calls := rest, prog := [], gen := GenState.start context, agent := .generator }) ∧
  (∀ (context : BitVec 64), (GenState.start context).cursor = 32 ∧ (GenState.start context).fail = 0 ∧
    (GenState.start context).code = [] ∧ (∀ r : Fin 4, (GenState.start context).lat[r] = 0) ∧
    (∀ (s : Fin 54) (l : Fin 2), (GenState.start context).busy[s][l] = false) ∧
    (GenState.start context).buf = seed context)

/-- R39, R176, R179, R261 (D18, D23, D25; logs 18, 19). An execute call starts at pc 0, Running, with the Host's x[4..7],
and with x[0..3] the Host's or, where it gives none, those the last call left. It refers to the buffer's Program or to
the caller's sequence up to its first RET, whatever entries follow that RET, and leaves the Program buffer as it is. -/
def Obligations.ExecuteCallStarts : Prop :=
  ∀ (s : State) (raw : Option (List RawRecord)) (vars : Option (Vector (Word s.width) 4))
    (consts : Vector (Word s.width) 4) (rest : List (HostCall s.width)) (ref : ProgramRef),
    s.Launchable → s.agent = .host → s.calls = .execute raw vars consts :: rest →
    (raw = none ∧ ref = .buffer ∨
      ∃ (p : List Instr) (tail : List RawRecord), raw = some (p.map Instr.raw ++ tail) ∧
        p.length + tail.length ≤ 110 ∧ (∀ j ∈ p.dropLast, j.isRet = false) ∧
        (tail = [] ∨ ∃ i, p.getLast? = some i ∧ i.isRet = true) ∧ ref = .own p) →
    ∃ regs : Vector (Word s.width) 8,
      step s = .next { s with
        calls := rest, ref := ref, regs := regs, pc := 0, status := .running, agent := .executor } ∧
      (∀ i : Fin 4, regs[i.val] = match vars with
        | some v => v[i]
        | none => s.regs[i.val]) ∧
      ∀ i : Fin 4, regs[i.val + 4] = consts[i]

/-- R39, R62, R235, R243 (D19, D25, D33; logs 17, 19). Refused by name: a W other than 32 and 64; two computations of the
launch with a buffer in common, of whatever kind, this one and another or two others; one whose own three buffers are
not distinct (the model's choice, log 17); a caller's sequence longer than 110; a caller's record out of range that
stands before or at the first RET. -/
def Obligations.LaunchRefusals : Prop :=
  (∀ s : State, s.width ≠ 32 → s.width ≠ 64 → step s = .refused .unsupportedWidth) ∧
  (∀ (s : State) (a b : Buffers) (n : Nat), s.width = 32 ∨ s.width = 64 →
    [a, b].Sublist (s.buffers :: s.concurrent) →
    n ∈ [a.program, a.registers, a.generator] → n ∈ [b.program, b.registers, b.generator] →
    step s = .refused .sharedBuffers) ∧
  (∀ (s : State) (a : Buffers), s.width = 32 ∨ s.width = 64 → a ∈ s.buffers :: s.concurrent →
    (a.program = a.registers ∨ a.program = a.generator ∨ a.registers = a.generator) →
    step s = .refused .sharedBuffers) ∧
  (∀ (s : State) (raw : List RawRecord) (vars : Option (Vector (Word s.width) 4))
    (consts : Vector (Word s.width) 4) (rest : List (HostCall s.width)), s.Launchable → s.agent = .host →
    s.calls = .execute (some raw) vars consts :: rest →
    (110 < raw.length → step s = .refused .programTooLong) ∧
    (∀ (pre post : List RawRecord) (r : RawRecord), raw = pre ++ r :: post → raw.length ≤ 110 →
      (∀ q ∈ pre, q.op ≠ 6) → ¬ InRange r → ∃ why, step s = .refused (.malformedRecord why)))

/-- R22, R263. A constant register changes only where the Host starts an execute call. -/
def Obligations.OnlyHostLoadsConstants : Prop :=
  ∀ (s t : State) (r : Fin 8), 4 ≤ r.val → step s = .next t → t.x r ≠ s.x r →
    s.agent = .host ∧ ∃ raw vars consts rest, s.calls = .execute raw vars consts :: rest

/-- R9, R41, R50, R63. No step changes W or the computations' buffers; no step of the Executor changes the Program, its
reference to it or the Generator's state; and the Program buffer changes only where the Host starts a generate call
(which empties it) and where the Generator returns its Program. That within a generate call it changes at these two
points alone, and not at each append (R28, R50), is the model's choice (log 15); that the buffers are storage numbers
and the reference is a field of the state are the model's too (logs 17, 19). -/
def Obligations.FixedThroughoutTheRun : Prop :=
  ∀ s t : State, step s = .next t →
    t.width = s.width ∧ t.buffers = s.buffers ∧ t.concurrent = s.concurrent ∧
    (s.agent = .executor → t.prog = s.prog ∧ t.ref = s.ref ∧ t.gen = s.gen) ∧
    (t.prog ≠ s.prog →
      (s.agent = .host ∧ t.prog = [] ∧ ∃ context rest, s.calls = .generate context :: rest) ∨
      (s.agent = .generator ∧ terminated s.gen = true))

/-- State.reset: the values R36 gives (pc, status, latency counters, busy table, failure counter, code, cursor, Program
buffer), and the model's own: W = 64 (log 1), registers 0 (log 10), context 0, the reference at the buffer, the Host's
turn and no call (logs 11, 12), the buffers in storage 0, 1 and 2 and no computation beside this one (logs 11, 17). In
every launchable state in which it is the Host's turn and no call is pending the block waits (log 13). -/
def Obligations.ResetLeaves : Prop :=
  State.reset.width = 64 ∧ (∀ r, State.reset.x r = 0) ∧ State.reset.pc = 0 ∧ State.reset.status = .running ∧
  State.reset.prog = [] ∧ State.reset.agent = .host ∧ State.reset.calls = [] ∧
  State.reset.gen.cursor = 32 ∧ State.reset.gen.fail = 0 ∧ State.reset.gen.code = [] ∧
  (∀ r : Fin 4, State.reset.gen.lat[r] = 0) ∧ (∀ (s : Fin 54) (l : Fin 2), State.reset.gen.busy[s][l] = false) ∧
  State.reset.gen = GenState.start 0 ∧ State.reset.ref = .buffer ∧ State.reset.buffers = ⟨0, 1, 2⟩ ∧
  State.reset.concurrent = [] ∧
  (∀ s : State, s.Launchable → s.agent = .host → s.calls = [] → step s = .next s)

/-! ### Decoding and encoding -/

/-- R71, R72, R104. The three fields of a compact byte, by value; their positions are the spec's choice D1 (log 5). -/
def Obligations.CompactFieldsByValue : Prop :=
  ∀ b : Byte, (rawField b).val = b.toNat % 8 ∧ (dstField b).val = b.toNat / 8 % 4 ∧
    (srcField b).val = b.toNat / 32

/-- R105. Raw 0 to 2 map to MUL and 3 to 7 to ADD, SUB, ROR, ROL, XOR in this order; none maps to RET. -/
def Obligations.RawOpcodeMap : Prop :=
  (∀ raw : Fin 8, raw.val ≤ 2 → mapOp raw = .mul) ∧ mapOp 3 = .add ∧ mapOp 4 = .sub ∧ mapOp 5 = .ror ∧
  mapOp 6 = .rol ∧ mapOp 7 = .xor ∧ ∀ raw, mapOp raw ≠ .ret

/-- R106. The collision fix compares fields, applies to SUB and XOR alone, and remaps exactly eight byte values. -/
def Obligations.CollisionFixRemaps : Prop :=
  (∀ (op : Opcode) (d : Fin 4) (r : Fin 8), (fixCollision op d r).val =
    if (op = .sub ∨ op = .xor) ∧ r.val = d.val then d.val + 4 else r.val) ∧
  (∀ b : Byte, (decodeByte b).src ≠ srcField b ↔
    b.toNat ∈ [0x04, 0x2C, 0x54, 0x7C, 0x07, 0x2F, 0x57, 0x7F])

/-- R83. A decoded SUB or XOR never has src = dst: its source is dst + 4 where the src field equals dst; every other
opcode keeps the field. -/
def Obligations.DecodedSubXorDistinct : Prop :=
  ∀ b : Byte,
    ((decodeByte b).opcode = .sub ∨ (decodeByte b).opcode = .xor →
      (decodeByte b).src.val ≠ (decodeByte b).dst.val ∧
      ((srcField b).val = (decodeByte b).dst.val → (decodeByte b).src.val = (decodeByte b).dst.val + 4) ∧
      ((srcField b).val ≠ (decodeByte b).dst.val → (decodeByte b).src = srcField b)) ∧
    ((decodeByte b).opcode ≠ .sub → (decodeByte b).opcode ≠ .xor → (decodeByte b).src = srcField b)

/-- Words written out from the spec: the examples of R106 and R108, the six compact words of
95_test_vectors.md P1, and RET's canonical record (the compact positions are D1's). -/
def Obligations.SpecWordsDecode : Prop :=
  decodeByte 0x00 = .mul 0 0 0 ∧ decodeByte 0x1B = .add 3 0 0 ∧ decodeByte 0x8F = .xor 1 4 0 ∧
  decodeByte 0x04 = .sub 0 4 0 ∧ decodeByte 0x7F = .xor 3 7 0 ∧ decodeByte 0xBD = .ror 3 5 0 ∧
  decodeByte 0xC6 = .rol 0 6 0 ∧ decodeByte 0x80 = .mul 0 4 0 ∧ decodeByte 0x34 = .sub 2 1 0 ∧
  decodeByte 0xEF = .xor 1 7 0 ∧ decodeStream [0x0B, 0xFE] = .ok (.add 1 0 (-2), []) ∧
  decodeSerial [6, 0, 0, 0] = .ok (Instr.retRecord, [])

/-- R76, R80 (D2, D17, log 8). Decoding a record's serialization gives the record back, for every record, and the bytes
that decode to a record are that record's serialization. -/
def Obligations.CanonicalRoundTrip : Prop :=
  (∀ (i : Instr) (rest : List Byte), decodeSerial (encode i ++ rest) = .ok (i, rest)) ∧
  (∀ (bytes rest : List Byte) (i : Instr), decodeSerial bytes = .ok (i, rest) → bytes = encode i ++ rest)

/-- R80 (D17, log 8). A Program's serialization is 4·|Prog| bytes and decodes to the Program, so two Programs are
byte-identical exactly when their record sequences are equal. -/
def Obligations.ProgramSerializationFaithful : Prop :=
  (∀ p : List Instr, (encodeProgram p).length = 4 * p.length ∧ decodeProgram (encodeProgram p) = .ok p) ∧
  (∀ p q : List Instr, encodeProgram p = encodeProgram q ↔ p = q)

/-- R71, R75, R79 (positions D1, log 5). Every well-formed operative record has a compact encoding, one byte or, for
ADD, two, which decodes to it and leaves the bytes after it; RET has none. -/
def Obligations.CompactRoundTrip : Prop :=
  (∀ (i : Instr) (rest : List Byte), i.wellFormed = true → i.isRet = false → ∃ bytes,
    encodeCompact i = some bytes ∧ bytes.length = (if i.opcode = .add then 2 else 1) ∧
    decodeStream (bytes ++ rest) = .ok (i, rest)) ∧
  (∀ i : Instr, i.isRet = true → encodeCompact i = none)

/-- R76, R235 (D19). A caller's record is accepted exactly when its fields are in range, and then it is the record with
those fields. -/
def Obligations.RecordsAcceptedExactlyInRange : Prop :=
  (∀ r : RawRecord, InRange r → ∃ i, decodeRecord r = .ok i ∧ i.raw = r) ∧
  (∀ r : RawRecord, ¬ InRange r → ∃ e, decodeRecord r = .error e) ∧
  (∀ i : Instr, decodeRecord i.raw = .ok i)

/-! ### The byte source -/

/-- R107 (D7, log 8). A C byte c stands for c below 128 and c − 256 from there on: that is the C of a record it is stored
in, and what ADD adds, modulo 2^W, at every width. The byte FetchC stores is the next stream byte. -/
def Obligations.SignedConstantByte : Prop :=
  (∀ (i : Instr) (c : Byte),
    (i.withConstant c).raw.c = if c.toNat < 128 then (c.toNat : Int) else c.toNat - 256) ∧
  (∀ (w : Nat) (c : Byte), ((constantValue w c).toNat : Int) =
    (if c.toNat < 128 then (c.toNat : Int) else c.toNat - 256) % 2 ^ w) ∧
  (∀ (refill : Bytes32 → Bytes32) (i : Instr) (g : GenState), i.opcode = .add →
    fetchConstant refill i g = nextByte refill g)

/-- R52, R102 (D4, log 6). Seed byte i holds context bits 8i+7..8i for i below 8, and 0 from there on. -/
def Obligations.SeedIsContextLittleEndian : Prop :=
  ∀ (context : BitVec 64) (i : Fin 32),
    ((seed context)[i]).toNat = if i.val < 8 then context.toNat / 2 ^ (8 * i.val) % 256 else 0

/-- R101 (D6, log 6), for every Refill. NextByte hands out the byte at the cursor and advances it; from an exhausted
buffer it refills the whole buffer first and hands out byte 0. -/
def Obligations.NextByteRefills : Prop :=
  ∀ (refill : Bytes32 → Bytes32) (g : GenState),
    (∀ h : g.cursor.val < 32, nextByte refill g =
      (g.buf[g.cursor.val], { g with cursor := ⟨g.cursor.val + 1, by omega⟩ })) ∧
    (g.cursor.val = 32 →
      nextByte refill g = ((refill g.buf)[0], { g with buf := refill g.buf, cursor := 1 }))

/-- R103, which the spec derives (from R101 and R102), for every Refill and context. The k-th byte NextByte returns is
byte k mod 32 of the seed refilled ⌊k / 32⌋ + 1 times. -/
def Obligations.StreamOrder : Prop :=
  ∀ (refill : Bytes32 → Bytes32) (context : BitVec 64) (n : Nat),
    (nextBytes refill n (GenState.start context)).1 = (List.range n).map (stream refill context)

/-- R75. A decode attempt takes two stream bytes when it places an ADD, the second being its C, and one byte
otherwise. An ADD is what raw 3 selects. -/
def Obligations.AttemptByteCount : Prop :=
  (∀ b : Byte, (decodeByte b).takesConstant = true ↔ (rawField b).val = 3) ∧
  (∀ (refill : Bytes32 → Bytes32) (g g1 g2 : GenState) (b c : Byte),
    nextByte refill g = (b, g1) → nextByte refill g1 = (c, g2) →
    (placement g1 (decodeByte b) ≠ none → (decodeByte b).takesConstant = true →
      (attempt refill g).buf = g2.buf ∧ (attempt refill g).cursor = g2.cursor ∧
      (attempt refill g).code = g.code ++ [(decodeByte b).withConstant c]) ∧
    (placement g1 (decodeByte b) = none ∨ (decodeByte b).takesConstant = false →
      (attempt refill g).buf = g1.buf ∧ (attempt refill g).cursor = g1.cursor))

/-! ### The scheduler and the Generator -/

/-- R133, R135 (D10, D11, log 7). Search finds the earliest slot from s0 on with a free lane the operation may use, and
in it the highest such lane; it finds none exactly when every such cell is busy. MUL may use lane 0, the other
operations lanes 1 and 0. -/
def Obligations.SearchFindsEarliest : Prop :=
  (∀ (busy : Vector (Vector Bool 2) 54) (i : Instr) (s0 : Nat) (s : Fin 54) (l : Fin 2),
    search busy i s0 = some (s, l) ↔
      s0 ≤ s.val ∧ l ∈ lanes i ∧ busy[s][l] = false ∧ (∀ l' ∈ lanes i, l < l' → busy[s][l'] = true) ∧
      ∀ s' : Fin 54, s' < s → s0 ≤ s'.val → ∀ l' ∈ lanes i, busy[s'][l'] = true) ∧
  (∀ (busy : Vector (Vector Bool 2) 54) (i : Instr) (s0 : Nat),
    search busy i s0 = none ↔ ∀ s : Fin 54, s0 ≤ s.val → ∀ l ∈ lanes i, busy[s][l] = true) ∧
  (∀ (i : Instr) (l : Fin 2), i.isRet = false → (l ∈ lanes i ↔ i.opcode ≠ .mul ∨ l = 0))

/-- R132. Simulated latency is 3 for MUL and 1 for the other operative opcodes; RET is never scheduled (in the model
because its lane count is 0: log 22). -/
def Obligations.SimulatedLatencies : Prop :=
  (∀ i : Instr, i.opcode = .mul → latency i = 3) ∧
  (∀ i : Instr, i.opcode ≠ .mul → i.opcode ≠ .ret → latency i = 1) ∧
  (∀ (g : GenState) (i : Instr), i.isRet = true → placement g i = none)

/-- R131, R134. The start slot is the later of the two operands' readiness; a constant register is always ready (D3,
log 7). It is at most 54 where the counters are, and lat(dst) where src = dst. -/
def Obligations.StartSlotIsLaterReadiness : Prop :=
  ∀ (lat : Vector Nat 4) (i : Instr),
    (∀ h : i.src.val < 4, startSlot lat i = max lat[i.dst] lat[i.src.val]) ∧
    (4 ≤ i.src.val → startSlot lat i = lat[i.dst]) ∧
    (i.src = varReg i.dst → startSlot lat i = lat[i.dst]) ∧
    ((∀ r : Fin 4, lat[r] ≤ 54) → startSlot lat i ≤ 54)

/-- R136. An instruction is placed exactly when Search found a cell and it completes within the budget, in that cell.
Another operation than MUL fails only where no cell is found; a MUL also where its first free slot is 52 or 53. -/
def Obligations.PlacementCondition : Prop :=
  (∀ (g : GenState) (i : Instr) (s : Fin 54) (l : Fin 2), placement g i = some (s, l) ↔
    search g.busy i (startSlot g.lat i) = some (s, l) ∧ s.val + latency i ≤ 54) ∧
  (∀ (g : GenState) (i : Instr), i.opcode ≠ .mul →
    (placement g i = none ↔ search g.busy i (startSlot g.lat i) = none)) ∧
  (∀ (g : GenState) (i : Instr) (s : Fin 54) (l : Fin 2), i.opcode = .mul →
    search g.busy i (startSlot g.lat i) = some (s, l) → (placement g i = none ↔ 52 ≤ s.val))

/-- R137 (the 0 for C is D8, log 8), for every Refill. A placement marks one cell, sets lat[dst] to slot + LAT, appends
the record with a fetched C for ADD and 0 otherwise, and clears fail; no other cell or counter changes. -/
def Obligations.PlacementUpdates : Prop :=
  ∀ (refill : Bytes32 → Bytes32) (g g1 : GenState) (b : Byte) (s : Fin 54) (l : Fin 2),
    nextByte refill g = (b, g1) → placement g1 (decodeByte b) = some (s, l) →
    (∀ (s' : Fin 54) (l' : Fin 2), (attempt refill g).busy[s'][l'] =
      if s' = s ∧ l' = l then true else g.busy[s'][l']) ∧
    (∀ r : Fin 4, (attempt refill g).lat[r] =
      if r = (decodeByte b).dst then s.val + latency (decodeByte b) else g.lat[r]) ∧
    (attempt refill g).code = g.code ++ [(decodeByte b).withConstant
      (if (decodeByte b).opcode = .add then (nextByte refill g1).1 else 0)] ∧
    (attempt refill g).fail = 0

/-- R138, for every Refill. A placement failure adds 1 to fail and nothing else: no cell, counter or record changes,
and only the compact byte has been read. -/
def Obligations.FailureOnlyCounts : Prop :=
  ∀ (refill : Bytes32 → Bytes32) (g g1 : GenState) (b : Byte),
    nextByte refill g = (b, g1) → placement g1 (decodeByte b) = none →
    (attempt refill g).fail = g.fail + 1 ∧ (attempt refill g).busy = g.busy ∧ (attempt refill g).lat = g.lat ∧
    (attempt refill g).code = g.code ∧ (attempt refill g).buf = g1.buf ∧ (attempt refill g).cursor = g1.cursor

/-- R139, R140, R141 (D8, D9, D26; logs 15, 23). On the Generator's turn Terminated is tested first: if it holds, code ++
[RET] becomes the Program and the turn is the Host's; if not, one decode attempt is made. Nothing else changes. -/
def Obligations.GeneratorTurn : Prop :=
  (∀ g : GenState, terminated g = true ↔
    (∀ r : Fin 4, g.lat[r] = 54) ∨ g.fail = 64 ∨ g.code.length = 109) ∧
  (∀ s : State, s.Launchable → s.agent = .generator → terminated s.gen = true →
    step s = .next { s with
      prog := s.gen.code ++ [.ret 0 0 0], gen := GenState.blank, agent := .host }) ∧
  (∀ s : State, s.Launchable → s.agent = .generator → terminated s.gen = false →
    step s = .next { s with gen := attempt Config.refill s.gen })

/-- R30, R32, R34, R40, R142, R144, for every Refill: the Generator's invariant holds at the start of a call, and every
attempt of a call that has not terminated keeps it. -/
def Obligations.GeneratorInvariantKept : Prop :=
  (∀ context, (GenState.start context).Inv) ∧
  (∀ (refill : Bytes32 → Bytes32) (g : GenState), g.Inv → terminated g = false → (attempt refill g).Inv)

/-- The machine's invariant (R24, R25, R28, R37, R235 and the Generator's own) is kept by every step from every state
that has it. -/
def Obligations.StepKeepsMachineInvariant : Prop :=
  ∀ s t : State, s.Inv → step s = .next t → t.Inv

/-- The machine's invariant holds at reset, at every width. -/
def Obligations.ResetHasMachineInvariant : Prop :=
  State.reset.Inv ∧ ∀ w, (State.resetAt w).Inv

/-- R143, R144, R233, which the spec derives. Where the Generator's invariant holds, at most 108 records are placed, at
most three variable registers have reached 54, and Terminated holds exactly when fail = 64. -/
def Obligations.OnlyRetryCapEndsGeneration : Prop :=
  ∀ g : GenState, g.Inv →
    g.code.length ≤ 108 ∧ completedCount g.lat ≤ 3 ∧ (terminated g = true ↔ g.fail = 64)

/-- R146, which the spec derives, for every Refill and context. The first attempt of a call places its instruction. -/
def Obligations.FirstAttemptPlaces : Prop :=
  ∀ (refill : Bytes32 → Bytes32) (context : BitVec 64),
    (attempt refill (GenState.start context)).code.length = 1 ∧ (attempt refill (GenState.start context)).fail = 0

/-- R147, which the spec derives, for every Refill. An instruction with an operand whose counter is 54 is never placed,
no counter ever falls, and a placement raises its destination's. -/
def Obligations.CompletedRegisterBlocks : Prop :=
  (∀ (g : GenState) (i : Instr),
    g.lat[i.dst] = 54 ∨ (∃ h : i.src.val < 4, g.lat[i.src.val] = 54) → placement g i = none) ∧
  (∀ (refill : Bytes32 → Bytes32) (g : GenState) (r : Fin 4), g.lat[r] ≤ (attempt refill g).lat[r]) ∧
  (∀ (refill : Bytes32 → Bytes32) (g g1 : GenState) (b : Byte), nextByte refill g = (b, g1) →
    placement g1 (decodeByte b) ≠ none →
    g.lat[(decodeByte b).dst] < (attempt refill g).lat[(decodeByte b).dst])

/-- R31, R142, which the spec derives, for every Refill. No cell is ever freed, and an attempt either appends one record
and occupies one more cell, or neither. -/
def Obligations.BusyCellsOnePerPlacement : Prop :=
  ∀ (refill : Bytes32 → Bytes32) (g : GenState),
    (∀ (s : Fin 54) (l : Fin 2), g.busy[s][l] = true → (attempt refill g).busy[s][l] = true) ∧
    ((attempt refill g).code.length = g.code.length + 1 ∧
        busyCount (attempt refill g).busy = busyCount g.busy + 1 ∨
      (attempt refill g).code = g.code ∧ (attempt refill g).busy = g.busy)

/-- R145, R248, which the spec derives, for every Refill and context. A generate call terminates after n ≤ 6976 decode
attempts and at none before, having read m ≤ 7084 stream bytes: one for each attempt and one for each ADD placed. -/
def Obligations.GenerateTerminates : Prop :=
  ∀ (refill : Bytes32 → Bytes32) (context : BitVec 64), ∃ n ≤ 6976, ∃ m ≤ 7084,
    terminated (attempts refill n (GenState.start context)) = true ∧
    (∀ k < n, terminated (attempts refill k (GenState.start context)) = false) ∧
    m = n + (attempts refill n (GenState.start context)).code.countP (fun i => decide (i.opcode = .add)) ∧
    (attempts refill n (GenState.start context)).buf = (nextBytes refill m (GenState.start context)).2.buf ∧
    (attempts refill n (GenState.start context)).cursor = (nextBytes refill m (GenState.start context)).2.cursor

/-- R40, R151, which the spec derives, for every Refill and context. Every generated Program is well formed and has 2
to 109 records. -/
def Obligations.GenerateWellFormed : Prop :=
  ∀ (refill : Bytes32 → Bytes32) (context : BitVec 64),
    ProgramWF (generate refill context) ∧ 2 ≤ (generate refill context).length ∧
    (generate refill context).length ≤ 109

/-- R148, R150. The machine refines generate: within 6978 steps of the Host's call (one to start, one to finish) the
Program buffer holds generate of the context, the Host has the turn, and nothing else of the state has changed but the
discarded Generator state (logs 15, 16). -/
def Obligations.GenerateCallReturnsProgram : Prop :=
  ∀ (s : State) (context : BitVec 64) (rest : List (HostCall s.width)), s.Launchable → s.agent = .host →
    s.calls = .generate context :: rest → ∃ n ≤ 6978, run n s =
      .next { s with calls := rest, prog := generate Config.refill context, gen := GenState.blank }

/-- R7, R148, R176, R178. A whole hash computation's first iteration: a generate call and then an execute call of its
Program on the Host's register file end within 7089 steps, Halted at the Program's last record, with the register file
its other records leave one after another. The bound counts the model's steps between calls, and the Generator state
left is the model's blank one (logs 15, 16). -/
def Obligations.HashComputationEnds : Prop :=
  ∀ (s : State) (context : BitVec 64) (vars consts : Vector (Word s.width) 4) (x : Vector (Word s.width) 8),
    s.Launchable → s.agent = .host → s.calls = [.generate context, .execute none (some vars) consts] →
    (∀ i : Fin 4, x[i.val] = vars[i] ∧ x[i.val + 4] = consts[i]) →
    ∃ n ≤ 7089, run n s = .next { s with
      calls := []
      prog := generate Config.refill context
      gen := GenState.blank
      ref := .buffer
      regs := (generate Config.refill context).dropLast.foldl applyInstr x
      pc := (generate Config.refill context).length - 1
      status := .halted }

/-- R109. Two machines of any widths with the same Generator state take the same Generator step: the same bytes, the
same record with the same C, the same placement, and in the end the same Program. -/
def Obligations.GeneratorIgnoresWidth : Prop :=
  ∀ s t : State, s.Launchable → t.Launchable → s.agent = .generator → t.agent = .generator → s.gen = t.gen →
    ∃ s' t', step s = .next s' ∧ step t = .next t' ∧ s'.gen = t'.gen ∧ s'.agent = t'.agent ∧
      (s'.agent = .host → s'.prog = t'.prog) ∧
      (∀ r, s'.x r = s.x r) ∧ (∀ r, t'.x r = t.x r) ∧ s'.width = s.width ∧ t'.width = t.width
end

