-- ==== Sys2Proof/Laws/ByteSource.lean ====
section
/-! SUPPORT. NextByte and FetchC touch the buffer and the cursor, and nothing else of the Generator (R101, R107). -/

namespace Sys2Proof.Machine

variable (refill : Bytes32 → Bytes32)

@[simp] theorem nextByte_lat (g : GenState) : (nextByte refill g).2.lat = g.lat := by
  unfold nextByte; split <;> rfl

@[simp] theorem nextByte_busy (g : GenState) : (nextByte refill g).2.busy = g.busy := by
  unfold nextByte; split <;> rfl

@[simp] theorem nextByte_fail (g : GenState) : (nextByte refill g).2.fail = g.fail := by
  unfold nextByte; split <;> rfl

@[simp] theorem nextByte_code (g : GenState) : (nextByte refill g).2.code = g.code := by
  unfold nextByte; split <;> rfl

/-- NextByte's byte and the state after it, which differs in the buffer and the cursor alone (R100, R101). -/
theorem nextByte_keeps (g : GenState) : ∃ b g', nextByte refill g = (b, g') ∧
    g'.lat = g.lat ∧ g'.busy = g.busy ∧ g'.fail = g.fail ∧ g'.code = g.code :=
  ⟨(nextByte refill g).1, (nextByte refill g).2, rfl, nextByte_lat refill g, nextByte_busy refill g,
    nextByte_fail refill g, nextByte_code refill g⟩

/-- After NextByte the cursor is past the byte handed out (R101). -/
theorem nextByte_cursor_pos (g : GenState) : 0 < (nextByte refill g).2.cursor.val := by
  unfold nextByte; split <;> simp

@[simp] theorem fetchConstant_lat (i : Instr) (g : GenState) : (fetchConstant refill i g).2.lat = g.lat := by
  unfold fetchConstant; split <;> simp

@[simp] theorem fetchConstant_busy (i : Instr) (g : GenState) : (fetchConstant refill i g).2.busy = g.busy := by
  unfold fetchConstant; split <;> simp

@[simp] theorem fetchConstant_fail (i : Instr) (g : GenState) : (fetchConstant refill i g).2.fail = g.fail := by
  unfold fetchConstant; split <;> simp

@[simp] theorem fetchConstant_code (i : Instr) (g : GenState) : (fetchConstant refill i g).2.code = g.code := by
  unfold fetchConstant; split <;> simp

/-- A record other than an ADD gets the constant 0 (R78, R137). -/
theorem fetchConstant_of_not_add {i : Instr} (h : i.takesConstant = false) (g : GenState) :
    fetchConstant refill i g = (0, g) := by simp [fetchConstant, h]

end Sys2Proof.Machine
end

