-- ==== Sys2Proof/Laws/Decode.lean ====
section
/-! SUPPORT. Small lemmas of records and the decoder. -/

namespace Sys2Proof

@[simp] theorem Instr.opcode_ofFields (op : Opcode) (d : Fin 4) (s : Fin 8) (c : Byte) :
    (Instr.ofFields op d s c).opcode = op := by cases op <;> rfl

@[simp] theorem Instr.dst_ofFields (op : Opcode) (d : Fin 4) (s : Fin 8) (c : Byte) :
    (Instr.ofFields op d s c).dst = d := by cases op <;> rfl

@[simp] theorem Instr.src_ofFields (op : Opcode) (d : Fin 4) (s : Fin 8) (c : Byte) :
    (Instr.ofFields op d s c).src = s := by cases op <;> rfl

@[simp] theorem Instr.constant_ofFields (op : Opcode) (d : Fin 4) (s : Fin 8) (c : Byte) :
    (Instr.ofFields op d s c).constant = c := by cases op <;> rfl

/-- A record is its four fields (R76). -/
theorem Instr.ofFields_fields (i : Instr) : Instr.ofFields i.opcode i.dst i.src i.constant = i := by
  cases i <;> rfl

theorem Instr.isRet_eq (i : Instr) : i.isRet = decide (i.opcode = .ret) := by cases i <;> rfl

theorem Instr.takesConstant_eq (i : Instr) : i.takesConstant = decide (i.opcode = .add) := by cases i <;> rfl

@[simp] theorem Opcode.ofNumber_number (op : Opcode) : Opcode.ofNumber op.number = some op := by
  cases op <;> rfl

theorem Opcode.number_lt (op : Opcode) : op.number < 7 := by cases op <;> decide

/-- A number names at most one opcode, the one it is the number of (R77). -/
theorem Opcode.number_of_ofNumber {n : Nat} {op : Opcode} (h : Opcode.ofNumber n = some op) : op.number = n := by
  unfold Opcode.ofNumber at h
  split at h <;> first | (cases h; rfl) | cases h

/-- No raw opcode maps to RET (R105). -/
theorem mapOp_ne_ret (raw : Fin 8) : mapOp raw ≠ .ret := by
  revert raw; decide

@[simp] theorem decodeByte_opcode (b : Byte) : (decodeByte b).opcode = mapOp (rawField b) := by
  simp [decodeByte]

@[simp] theorem decodeByte_dst (b : Byte) : (decodeByte b).dst = dstField b := by
  simp [decodeByte]

@[simp] theorem decodeByte_src (b : Byte) :
    (decodeByte b).src = fixCollision (mapOp (rawField b)) (dstField b) (srcField b) := by
  simp [decodeByte]

@[simp] theorem decodeByte_constant (b : Byte) : (decodeByte b).constant = 0 := by
  simp [decodeByte]

@[simp] theorem Instr.opcode_withConstant (i : Instr) (c : Byte) : (i.withConstant c).opcode = i.opcode := by
  simp [withConstant]

@[simp] theorem Instr.dst_withConstant (i : Instr) (c : Byte) : (i.withConstant c).dst = i.dst := by
  simp [withConstant]

@[simp] theorem Instr.src_withConstant (i : Instr) (c : Byte) : (i.withConstant c).src = i.src := by
  simp [withConstant]

@[simp] theorem Instr.constant_withConstant (i : Instr) (c : Byte) : (i.withConstant c).constant = c := by
  simp [withConstant]

/-- Setting C keeps the opcode, so it keeps whether a record is a RET or takes a C. -/
@[simp] theorem Instr.isRet_withConstant (i : Instr) (c : Byte) : (i.withConstant c).isRet = i.isRet := by
  cases i <;> rfl

@[simp] theorem Instr.takesConstant_withConstant (i : Instr) (c : Byte) :
    (i.withConstant c).takesConstant = i.takesConstant := by cases i <;> rfl

/-- A checked sequence has no more records than the raw one (R235). -/
theorem decodeRecords_length_le {raw : List RawRecord} : ∀ {p : List Instr}, decodeRecords raw = .ok p →
    p.length ≤ raw.length := by
  induction raw with
  | nil => intro p h; cases h; exact Nat.le_refl 0
  | cons r rs ih =>
    intro p h
    unfold decodeRecords at h
    split at h
    · cases h
    · split at h
      · cases h; exact Nat.succ_le_succ (Nat.zero_le _)
      · split at h
        · cases h
        · next q hq => cases h; exact Nat.succ_le_succ (ih hq)

/-- The check of a sequence goes on past a record that is no RET. -/
theorem decodeRecords_cons_of_not_ret {r : RawRecord} {i : Instr} (h : decodeRecord r = .ok i) (hi : i.isRet = false)
    (rs : List RawRecord) :
    decodeRecords (r :: rs) = match decodeRecords rs with
      | .error e => .error e
      | .ok p => .ok (i :: p) := by simp only [decodeRecords, h, hi]; rfl

/-- The check of a sequence ends with a RET, whatever follows it (R39, R177). -/
theorem decodeRecords_cons_of_ret {r : RawRecord} {i : Instr} (h : decodeRecord r = .ok i) (hi : i.isRet = true)
    (rs : List RawRecord) : decodeRecords (r :: rs) = .ok [i] := by simp only [decodeRecords, h, hi]; rfl

/-- The check of a sequence stops at a malformed record (R235). -/
theorem decodeRecords_cons_of_error {r : RawRecord} {e : DecodeError} (h : decodeRecord r = .error e)
    (rs : List RawRecord) : decodeRecords (r :: rs) = .error e := by simp only [decodeRecords, h]

end Sys2Proof
end

