-- ==== Sys2Proof/Laws/State.lean ====
section
/-! SUPPORT. What each named update does to each field of State, and reads after writes of the register file. -/

namespace Sys2Proof.Machine

@[simp] theorem State.writeVar_width (s : State) (d : Fin 4) (v : Word s.width) : (s.writeVar d v).width = s.width := rfl
@[simp] theorem State.writeVar_buffers (s : State) (d : Fin 4) (v : Word s.width) : (s.writeVar d v).buffers = s.buffers := rfl
@[simp] theorem State.writeVar_concurrent (s : State) (d : Fin 4) (v : Word s.width) : (s.writeVar d v).concurrent = s.concurrent := rfl
@[simp] theorem State.writeVar_regs (s : State) (d : Fin 4) (v : Word s.width) : (s.writeVar d v).regs = s.regs.set (varReg d).val v (varReg d).isLt := rfl
@[simp] theorem State.writeVar_pc (s : State) (d : Fin 4) (v : Word s.width) : (s.writeVar d v).pc = s.pc := rfl
@[simp] theorem State.writeVar_status (s : State) (d : Fin 4) (v : Word s.width) : (s.writeVar d v).status = s.status := rfl
@[simp] theorem State.writeVar_prog (s : State) (d : Fin 4) (v : Word s.width) : (s.writeVar d v).prog = s.prog := rfl
@[simp] theorem State.writeVar_ref (s : State) (d : Fin 4) (v : Word s.width) : (s.writeVar d v).ref = s.ref := rfl
@[simp] theorem State.writeVar_program (s : State) (d : Fin 4) (v : Word s.width) : (s.writeVar d v).program = s.program := rfl
@[simp] theorem State.writeVar_gen (s : State) (d : Fin 4) (v : Word s.width) : (s.writeVar d v).gen = s.gen := rfl
@[simp] theorem State.writeVar_agent (s : State) (d : Fin 4) (v : Word s.width) : (s.writeVar d v).agent = s.agent := rfl
@[simp] theorem State.writeVar_calls (s : State) (d : Fin 4) (v : Word s.width) : (s.writeVar d v).calls = s.calls := rfl

@[simp] theorem State.advance_width (s : State) : (s.advance).width = s.width := rfl
@[simp] theorem State.advance_buffers (s : State) : (s.advance).buffers = s.buffers := rfl
@[simp] theorem State.advance_concurrent (s : State) : (s.advance).concurrent = s.concurrent := rfl
@[simp] theorem State.advance_regs (s : State) : (s.advance).regs = s.regs := rfl
@[simp] theorem State.advance_pc (s : State) : (s.advance).pc = s.pc + 1 := rfl
@[simp] theorem State.advance_status (s : State) : (s.advance).status = s.status := rfl
@[simp] theorem State.advance_prog (s : State) : (s.advance).prog = s.prog := rfl
@[simp] theorem State.advance_ref (s : State) : (s.advance).ref = s.ref := rfl
@[simp] theorem State.advance_program (s : State) : (s.advance).program = s.program := rfl
@[simp] theorem State.advance_gen (s : State) : (s.advance).gen = s.gen := rfl
@[simp] theorem State.advance_agent (s : State) : (s.advance).agent = s.agent := rfl
@[simp] theorem State.advance_calls (s : State) : (s.advance).calls = s.calls := rfl

@[simp] theorem State.setStatus_width (s : State) (st : Status) : (s.setStatus st).width = s.width := rfl
@[simp] theorem State.setStatus_buffers (s : State) (st : Status) : (s.setStatus st).buffers = s.buffers := rfl
@[simp] theorem State.setStatus_concurrent (s : State) (st : Status) : (s.setStatus st).concurrent = s.concurrent := rfl
@[simp] theorem State.setStatus_regs (s : State) (st : Status) : (s.setStatus st).regs = s.regs := rfl
@[simp] theorem State.setStatus_pc (s : State) (st : Status) : (s.setStatus st).pc = s.pc := rfl
@[simp] theorem State.setStatus_status (s : State) (st : Status) : (s.setStatus st).status = st := rfl
@[simp] theorem State.setStatus_prog (s : State) (st : Status) : (s.setStatus st).prog = s.prog := rfl
@[simp] theorem State.setStatus_ref (s : State) (st : Status) : (s.setStatus st).ref = s.ref := rfl
@[simp] theorem State.setStatus_program (s : State) (st : Status) : (s.setStatus st).program = s.program := rfl
@[simp] theorem State.setStatus_gen (s : State) (st : Status) : (s.setStatus st).gen = s.gen := rfl
@[simp] theorem State.setStatus_agent (s : State) (st : Status) : (s.setStatus st).agent = s.agent := rfl
@[simp] theorem State.setStatus_calls (s : State) (st : Status) : (s.setStatus st).calls = s.calls := rfl

@[simp] theorem State.setAgent_width (s : State) (a : Agent) : (s.setAgent a).width = s.width := rfl
@[simp] theorem State.setAgent_buffers (s : State) (a : Agent) : (s.setAgent a).buffers = s.buffers := rfl
@[simp] theorem State.setAgent_concurrent (s : State) (a : Agent) : (s.setAgent a).concurrent = s.concurrent := rfl
@[simp] theorem State.setAgent_regs (s : State) (a : Agent) : (s.setAgent a).regs = s.regs := rfl
@[simp] theorem State.setAgent_pc (s : State) (a : Agent) : (s.setAgent a).pc = s.pc := rfl
@[simp] theorem State.setAgent_status (s : State) (a : Agent) : (s.setAgent a).status = s.status := rfl
@[simp] theorem State.setAgent_prog (s : State) (a : Agent) : (s.setAgent a).prog = s.prog := rfl
@[simp] theorem State.setAgent_ref (s : State) (a : Agent) : (s.setAgent a).ref = s.ref := rfl
@[simp] theorem State.setAgent_program (s : State) (a : Agent) : (s.setAgent a).program = s.program := rfl
@[simp] theorem State.setAgent_gen (s : State) (a : Agent) : (s.setAgent a).gen = s.gen := rfl
@[simp] theorem State.setAgent_agent (s : State) (a : Agent) : (s.setAgent a).agent = a := rfl
@[simp] theorem State.setAgent_calls (s : State) (a : Agent) : (s.setAgent a).calls = s.calls := rfl

@[simp] theorem State.retire_width (s : State) (d : Fin 4) (v : Word s.width) : (s.retire d v).width = s.width := rfl
@[simp] theorem State.retire_buffers (s : State) (d : Fin 4) (v : Word s.width) : (s.retire d v).buffers = s.buffers := rfl
@[simp] theorem State.retire_concurrent (s : State) (d : Fin 4) (v : Word s.width) : (s.retire d v).concurrent = s.concurrent := rfl
@[simp] theorem State.retire_regs (s : State) (d : Fin 4) (v : Word s.width) : (s.retire d v).regs = s.regs.set (varReg d).val v (varReg d).isLt := rfl
@[simp] theorem State.retire_pc (s : State) (d : Fin 4) (v : Word s.width) : (s.retire d v).pc = s.pc + 1 := rfl
@[simp] theorem State.retire_status (s : State) (d : Fin 4) (v : Word s.width) : (s.retire d v).status = s.status := rfl
@[simp] theorem State.retire_prog (s : State) (d : Fin 4) (v : Word s.width) : (s.retire d v).prog = s.prog := rfl
@[simp] theorem State.retire_ref (s : State) (d : Fin 4) (v : Word s.width) : (s.retire d v).ref = s.ref := rfl
@[simp] theorem State.retire_program (s : State) (d : Fin 4) (v : Word s.width) : (s.retire d v).program = s.program := rfl
@[simp] theorem State.retire_gen (s : State) (d : Fin 4) (v : Word s.width) : (s.retire d v).gen = s.gen := rfl
@[simp] theorem State.retire_agent (s : State) (d : Fin 4) (v : Word s.width) : (s.retire d v).agent = s.agent := rfl
@[simp] theorem State.retire_calls (s : State) (d : Fin 4) (v : Word s.width) : (s.retire d v).calls = s.calls := rfl

@[simp] theorem State.runOffEnd_width (s : State) : (s.runOffEnd).width = s.width := rfl
@[simp] theorem State.runOffEnd_buffers (s : State) : (s.runOffEnd).buffers = s.buffers := rfl
@[simp] theorem State.runOffEnd_concurrent (s : State) : (s.runOffEnd).concurrent = s.concurrent := rfl
@[simp] theorem State.runOffEnd_regs (s : State) : (s.runOffEnd).regs = s.regs := rfl
@[simp] theorem State.runOffEnd_pc (s : State) : (s.runOffEnd).pc = s.pc := rfl
@[simp] theorem State.runOffEnd_status (s : State) : (s.runOffEnd).status = .faulted .runOffEnd := rfl
@[simp] theorem State.runOffEnd_prog (s : State) : (s.runOffEnd).prog = s.prog := rfl
@[simp] theorem State.runOffEnd_ref (s : State) : (s.runOffEnd).ref = s.ref := rfl
@[simp] theorem State.runOffEnd_program (s : State) : (s.runOffEnd).program = s.program := rfl
@[simp] theorem State.runOffEnd_gen (s : State) : (s.runOffEnd).gen = s.gen := rfl
@[simp] theorem State.runOffEnd_agent (s : State) : (s.runOffEnd).agent = s.agent := rfl
@[simp] theorem State.runOffEnd_calls (s : State) : (s.runOffEnd).calls = s.calls := rfl

@[simp] theorem State.loadOne_width (s : State) (i : Instr) : (s.loadOne i).width = s.width := rfl
@[simp] theorem State.loadOne_buffers (s : State) (i : Instr) : (s.loadOne i).buffers = s.buffers := rfl
@[simp] theorem State.loadOne_concurrent (s : State) (i : Instr) : (s.loadOne i).concurrent = s.concurrent := rfl
@[simp] theorem State.loadOne_regs (s : State) (i : Instr) : (s.loadOne i).regs = s.regs := rfl
@[simp] theorem State.loadOne_pc (s : State) (i : Instr) : (s.loadOne i).pc = 0 := rfl
@[simp] theorem State.loadOne_status (s : State) (i : Instr) : (s.loadOne i).status = .running := rfl
@[simp] theorem State.loadOne_prog (s : State) (i : Instr) : (s.loadOne i).prog = s.prog := rfl
@[simp] theorem State.loadOne_ref (s : State) (i : Instr) : (s.loadOne i).ref = .own [i] := rfl
@[simp] theorem State.loadOne_program (s : State) (i : Instr) : (s.loadOne i).program = [i] := rfl
@[simp] theorem State.loadOne_gen (s : State) (i : Instr) : (s.loadOne i).gen = s.gen := rfl
@[simp] theorem State.loadOne_agent (s : State) (i : Instr) : (s.loadOne i).agent = .executor := rfl
@[simp] theorem State.loadOne_calls (s : State) (i : Instr) : (s.loadOne i).calls = s.calls := rfl

/-- A run from the buffer sees the buffer's Program; a run of a caller's own sequence sees that (R170). -/
@[simp] theorem ProgramRef.select_buffer (prog : List Instr) : ProgramRef.buffer.select prog = prog := rfl

@[simp] theorem ProgramRef.select_own (p prog : List Instr) : (ProgramRef.own p).select prog = p := rfl

theorem State.program_of_buffer {s : State} (h : s.ref = .buffer) : s.program = s.prog := by simp [program, h]

theorem State.program_of_own {s : State} {p : List Instr} (h : s.ref = .own p) : s.program = p := by simp [program, h]

@[simp] theorem varReg_val (d : Fin 4) : (varReg d).val = d.val := rfl

theorem varReg_injective {d e : Fin 4} (h : varReg d = varReg e) : d = e :=
  Fin.ext (by simpa using congrArg Fin.val h)

/-- A register read after a write: the value written, or what was there (R60). -/
theorem State.readReg_writeVar (s : State) (d : Fin 4) (v : Word s.width) (r : Fin 8) :
    (s.writeVar d v).readReg r = if r = varReg d then v else s.readReg r := by
  show (s.regs.set (varReg d).val v (varReg d).isLt)[r.val] = _
  rw [Vector.getElem_set]
  by_cases h : r = varReg d
  · rw [if_pos h, if_pos (congrArg Fin.val h.symm)]
  · rw [if_neg h, if_neg fun e => h (Fin.ext e.symm)]; rfl

theorem State.x_writeVar (s : State) (d : Fin 4) (v : Word s.width) (r : Fin 8) :
    (s.writeVar d v).x r = if r = varReg d then v.toNat else s.x r := by
  show ((s.writeVar d v).readReg r).toNat = _
  rw [readReg_writeVar]; split <;> rfl

/-- What an operative instruction leaves in the registers (R175). -/
theorem State.x_retire (s : State) (d : Fin 4) (v : Word s.width) (r : Fin 8) :
    (s.retire d v).x r = if r = varReg d then v.toNat else s.x r := s.x_writeVar d v r

@[simp] theorem State.x_advance (s : State) (r : Fin 8) : s.advance.x r = s.x r := rfl

@[simp] theorem State.x_setStatus (s : State) (st : Status) (r : Fin 8) : (s.setStatus st).x r = s.x r := rfl

/-- A constant register is no variable register (R22). -/
theorem ne_varReg_of_ge {r : Fin 8} (h : 4 ≤ r.val) (d : Fin 4) : r ≠ varReg d := by
  intro e; have := d.isLt; rw [e, varReg_val] at h; omega

end Sys2Proof.Machine
end

