-- ==== Sys2Proof/Laws/Exec.lean ====
section
/-! SUPPORT. What one instruction does, said once for all seven (R172). -/

namespace Sys2Proof.Machine

/-- The result an operative instruction computes from its operands' old values (R172, R174). -/
def resultOf (i : Instr) (s : State) : Word s.width :=
  match i with
  | .mul d r _ => mulResult (dstValue s d) (srcValue s r)
  | .add d r c => addResult (dstValue s d) (srcValue s r) c
  | .sub d r _ => subResult (dstValue s d) (srcValue s r)
  | .ror d r _ => rorResult (dstValue s d) (srcValue s r)
  | .rol d r _ => rolResult (dstValue s d) (srcValue s r)
  | .xor d r _ => xorResult (dstValue s d) (srcValue s r)
  | .ret _ _ _ => 0

/-- Everything an instruction can do: write its result to x[dst] and advance, or, for RET, halt. -/
theorem exec_eq (i : Instr) (s : State) :
    exec i s = .next (if i.isRet then s.setStatus .halted else s.retire i.dst (resultOf i s)) := by
  cases i <;> rfl

theorem exec_of_not_ret {i : Instr} (h : i.isRet = false) (s : State) :
    exec i s = .next (s.retire i.dst (resultOf i s)) := by rw [exec_eq, h]; rfl

theorem exec_of_ret {i : Instr} (h : i.isRet = true) (s : State) :
    exec i s = .next (s.setStatus .halted) := by rw [exec_eq, h]; rfl

/-- The register file an operative instruction leaves is `applyInstr`'s. -/
theorem regs_retire_resultOf {i : Instr} (h : i.isRet = false) (s : State) :
    (s.retire i.dst (resultOf i s)).regs = applyInstr s.regs i := by
  cases i <;> first | rfl | cases h

end Sys2Proof.Machine
end

