-- ==== Sys2Proof/Laws/HostCalls.lean ====
section
/-! SUPPORT. What the start of a call can be (R235, R260, R261). -/

namespace Sys2Proof.Machine

/-- An accepted Program is the buffer's, or a checked sequence of at most 110 records. -/
theorem launchProgram_ok {ref : ProgramRef} {raw : Option (List RawRecord)} (h : launchProgram raw = .ok ref) :
    (raw = none ∧ ref = .buffer) ∨
      ∃ rs p, raw = some rs ∧ decodeRecords rs = .ok p ∧ ref = .own p ∧ p.length ≤ 110 := by
  unfold launchProgram at h
  split at h
  · cases h; exact .inl ⟨rfl, rfl⟩
  · next rs =>
    split at h
    · cases h
    · next hl =>
      split at h
      · next q hq => cases h; exact .inr ⟨rs, q, rfl, hq, rfl, Nat.le_trans (decodeRecords_length_le hq) (Nat.not_lt.mp hl)⟩
      · cases h

/-- Everything the start of a call that is not refused can do. -/
theorem startCall_cases {s t : State} {c : HostCall s.width} (h : startCall s c = .next t) :
    (∃ context, c = .generate context ∧
      t = { s with gen := GenState.start context, prog := [], agent := .generator }) ∨
    ∃ raw vars consts ref, c = .execute raw vars consts ∧ launchProgram raw = .ok ref ∧
      t = { s with
        ref := ref, regs := launchRegs s.regs vars consts, pc := 0, status := .running, agent := .executor } := by
  cases c with
  | generate context => cases h; exact .inl ⟨context, rfl, rfl⟩
  | execute raw vars consts =>
    simp only [startCall] at h
    split at h
    · cases h
    · next p hp => cases h; exact .inr ⟨raw, vars, consts, p, rfl, hp, rfl⟩

end Sys2Proof.Machine
end

