-- ==== Sys2Proof/Laws/PerInstr.lean ====
section
/-! SUPPORT. Per-instruction family FieldsAndWords: a record is its fields, and its serialization is its opcode number,
its two register numbers and its constant (R76, R77, R80). -/

namespace Sys2Proof.Laws.FieldsAndWords

/-- The record is rebuilt from its fields, and its four serialized bytes are those fields (R80). -/
def Statement (i : Instr) : Prop :=
  Instr.ofFields i.opcode i.dst i.src i.constant = i ∧
    (encode i).map BitVec.toNat = [i.opcode.number, i.dst.val, i.src.val, i.constant.toNat]

theorem words (i : Instr) :
    (encode i).map BitVec.toNat = [i.opcode.number, i.dst.val, i.src.val, i.constant.toNat] := by
  have h1 := i.opcode.number_lt
  have h2 := i.dst.isLt
  have h3 := i.src.isLt
  simp only [encode, List.map_cons, List.map_nil, BitVec.toNat_ofNat]
  rw [Nat.mod_eq_of_lt (by omega), Nat.mod_eq_of_lt (by omega), Nat.mod_eq_of_lt (by omega)]

theorem mul (dst : Fin 4) (src : Fin 8) (c : Byte) : Statement (.mul dst src c) := ⟨rfl, words _⟩
theorem add (dst : Fin 4) (src : Fin 8) (c : Byte) : Statement (.add dst src c) := ⟨rfl, words _⟩
theorem sub (dst : Fin 4) (src : Fin 8) (c : Byte) : Statement (.sub dst src c) := ⟨rfl, words _⟩
theorem ror (dst : Fin 4) (src : Fin 8) (c : Byte) : Statement (.ror dst src c) := ⟨rfl, words _⟩
theorem rol (dst : Fin 4) (src : Fin 8) (c : Byte) : Statement (.rol dst src c) := ⟨rfl, words _⟩
theorem xor (dst : Fin 4) (src : Fin 8) (c : Byte) : Statement (.xor dst src c) := ⟨rfl, words _⟩
theorem ret (dst : Fin 4) (src : Fin 8) (c : Byte) : Statement (.ret dst src c) := ⟨rfl, words _⟩

end Sys2Proof.Laws.FieldsAndWords
end

