-- ==== Sys2Proof/Laws/Run.lean ====
section
/-! SUPPORT. Runs of several steps, taken apart. -/

namespace Sys2Proof.Machine

@[simp] theorem run_zero (s : State) : run 0 s = .next s := rfl

/-- A run begins with a step that answers a next state. -/
theorem run_succ_of_step {s t : State} (h : step s = .next t) (n : Nat) : run (n + 1) s = run n t := by
  have h' : core.step s = .next t := h
  simp only [run, Host.Core.run, h']
  rfl

/-- A run of one step or more that ends in a next state: its first step, and the rest. -/
theorem run_succ_next {n : Nat} {s u : State} (h : run (n + 1) s = .next u) :
    ∃ t, step s = .next t ∧ run n t = .next u := by
  have h' : Host.Core.run core (n + 1) s = .next u := h
  simp only [Host.Core.run] at h'
  split at h'
  · next t ht => exact ⟨t, ht, h'⟩
  · cases h'
  · cases h'

/-- Runs join end to end. -/
theorem run_add {m : Nat} : ∀ {s t : State}, run m s = .next t → ∀ n, run (m + n) s = run n t := by
  induction m with
  | zero => intro s t h n; cases h; rw [Nat.zero_add]
  | succ m ih =>
    intro s t h n
    obtain ⟨s', hs, h⟩ := run_succ_next h
    rw [Nat.add_right_comm, run_succ_of_step hs, ih h]

end Sys2Proof.Machine
end

