-- ==== Sys2Proof/Laws/Scheduler.lean ====
section
/-! SUPPORT. What a found cell is, what placement changes, and one inversion lemma for a decode attempt. -/

namespace Sys2Proof.Machine

/-- A lane Search returns is one the operation may use, and it is free (R133, R135). -/
theorem freeLane_some {busy : Vector (Vector Bool 2) 54} {i : Instr} {s : Fin 54} {l : Fin 2}
    (h : freeLane busy i s = some l) : l ∈ lanes i ∧ busy[s][l] = false := by
  unfold freeLane at h
  exact ⟨List.mem_of_find?_eq_some h, by simpa using List.find?_some h⟩

/-- A cell Search returns: at or after s0, free, on a lane the operation may use (R135). -/
theorem search_some {busy : Vector (Vector Bool 2) 54} {i : Instr} {s0 : Nat} {s : Fin 54} {l : Fin 2}
    (h : search busy i s0 = some (s, l)) : s0 ≤ s.val ∧ l ∈ lanes i ∧ busy[s][l] = false := by
  unfold search at h
  obtain ⟨a, -, ha⟩ := List.exists_of_findSome?_eq_some h
  split at ha
  · next hs =>
    obtain ⟨b, hb, e⟩ := Option.map_eq_some_iff.mp ha
    cases e
    exact ⟨hs, freeLane_some hb⟩
  · cases ha

/-- A placed instruction's cell: Search's, and the instruction completes within the budget (R136). -/
theorem placement_some {g : GenState} {i : Instr} {s : Fin 54} {l : Fin 2} (h : placement g i = some (s, l)) :
    search g.busy i (startSlot g.lat i) = some (s, l) ∧ s.val + latency i ≤ 54 := by
  unfold placement at h
  split at h
  · next a b e =>
    split at h
    · next hle => cases h; exact ⟨e, hle⟩
    · cases h
  · cases h

/-- An operative instruction takes at least one slot (R132). -/
theorem latency_pos {i : Instr} (h : i.isRet = false) : 1 ≤ latency i := by
  cases i <;> first | exact Nat.le_of_ble_eq_true rfl | cases h

theorem latency_le (i : Instr) : latency i ≤ 3 := by cases i <;> exact Nat.le_of_ble_eq_true rfl

variable (refill : Bytes32 → Bytes32)

@[simp] theorem place_busy (i : Instr) (s : Fin 54) (l : Fin 2) (g : GenState) :
    (place refill i s l g).busy = markBusy g.busy s l := rfl

@[simp] theorem place_lat (i : Instr) (s : Fin 54) (l : Fin 2) (g : GenState) :
    (place refill i s l g).lat = g.lat.set i.dst.val (s.val + latency i) i.dst.isLt := rfl

@[simp] theorem place_fail (i : Instr) (s : Fin 54) (l : Fin 2) (g : GenState) :
    (place refill i s l g).fail = 0 := rfl

@[simp] theorem place_code (i : Instr) (s : Fin 54) (l : Fin 2) (g : GenState) :
    (place refill i s l g).code = g.code ++ [i.withConstant (fetchConstant refill i g).1] := rfl

/-- The busy table after a placement: the one cell is true, the others are as they were (R137). -/
theorem markBusy_get (busy : Vector (Vector Bool 2) 54) (s s' : Fin 54) (l l' : Fin 2) :
    (markBusy busy s l)[s'][l'] = if s = s' ∧ l = l' then true else busy[s'][l'] := by
  show ((busy.set s.val (busy[s].set l.val true l.isLt) s.isLt)[s'.val])[l'.val] = _
  simp only [Vector.getElem_set]
  by_cases hs : s = s'
  · subst hs
    simp only [if_true, true_and, Vector.getElem_set, Fin.ext_iff]
    rfl
  · have : s.val ≠ s'.val := fun e => hs (Fin.ext e)
    simp only [this, hs, false_and, if_false]
    rfl

/-- Everything one decode attempt can do (R140): read a byte, then place its record in a free cell or count a
failure. -/
theorem attempt_cases (g : GenState) :
    (∃ s l, placement (nextByte refill g).2 (decodeByte (nextByte refill g).1) = some (s, l) ∧
      attempt refill g = place refill (decodeByte (nextByte refill g).1) s l (nextByte refill g).2) ∨
    (placement (nextByte refill g).2 (decodeByte (nextByte refill g).1) = none ∧
      attempt refill g = placementFailure (nextByte refill g).2) := by
  unfold attempt
  cases h : placement (nextByte refill g).2 (decodeByte (nextByte refill g).1) with
  | none => exact .inr ⟨rfl, by simp [h]⟩
  | some p => exact .inl ⟨p.1, p.2, rfl, by simp [h]⟩

/-- `attempt_cases` with the byte read and the state after reading it named. -/
theorem attempt_of_nextByte {g g' : GenState} {b : Byte} (h : nextByte refill g = (b, g')) :
    (∃ s l, placement g' (decodeByte b) = some (s, l) ∧ attempt refill g = place refill (decodeByte b) s l g') ∨
    (placement g' (decodeByte b) = none ∧ attempt refill g = placementFailure g') := by
  have c := attempt_cases refill g
  rwa [h] at c

end Sys2Proof.Machine
end

