-- ==== Sys2Proof/Laws/Step.lean ====
section
/-! SUPPORT. Everything a step that answers a next state can be (R7, R172, R140, R8), in one inversion lemma. -/

namespace Sys2Proof.Machine

theorem not_sharesBuffers_iff (s : State) : s.sharesBuffers = false ↔ s.storage.Nodup := by
  simp [State.sharesBuffers]

/-- Two computations of a launch that have a buffer in common use some storage twice (R62, R243). -/
theorem not_nodup_of_common {s : State} {a b : Buffers} (h : [a, b].Sublist (s.buffers :: s.concurrent)) {n : Nat}
    (ha : n ∈ a.names) (hb : n ∈ b.names) : ¬ s.storage.Nodup := by
  intro hs
  have hab : ([a, b].flatMap Buffers.names).Nodup := hs.sublist (h.flatMap Buffers.names)
  rw [List.flatMap_cons, List.flatMap_singleton] at hab
  exact (List.nodup_append.mp hab).2.2 n ha n hb rfl

/-- On a launchable machine the agent whose turn it is steps (R7, R268). -/
theorem step_of_launchable {s : State} (h : s.Launchable) :
    step s = match s.agent with
      | .host => hostStep s
      | .generator => generatorStep s
      | .executor => executorStep s := by
  have hw : s.widthSupported = true := by
    rcases h.1 with e | e <;> simp [State.widthSupported, e]
  have hb := (not_sharesBuffers_iff s).mpr h.2
  cases ha : s.agent <;> simp [step, cycle, hw, hb, ha]

/-- What a step to a next state was. -/
theorem step_cases {s t : State} (h : step s = .next t) :
    (s.agent = .host ∧ s.calls = [] ∧ t = s) ∨
    (s.agent = .host ∧ ∃ c rest, s.calls = c :: rest ∧ startCall { s with calls := rest } c = .next t) ∨
    (s.agent = .generator ∧ terminated s.gen = true ∧
      t = { s with prog := finishedProgram s.gen, gen := GenState.blank, agent := .host }) ∨
    (s.agent = .generator ∧ terminated s.gen = false ∧ t = { s with gen := attempt Config.refill s.gen }) ∨
    (s.agent = .executor ∧ s.status = .running ∧ s.fetch = none ∧ t = s.runOffEnd) ∨
    (s.agent = .executor ∧ s.status = .running ∧ ∃ i, s.fetch = some i ∧ exec i s = .next t) ∨
    (s.agent = .executor ∧ s.status ≠ .running ∧ t = s.setAgent .host) := by
  unfold step cycle at h
  split at h
  · cases h
  split at h
  · cases h
  split at h
  · next ha =>
    unfold hostStep at h
    split at h
    · next hc => cases h; exact .inl ⟨ha, hc, rfl⟩
    · next c rest hc => exact .inr (.inl ⟨ha, c, rest, hc, h⟩)
  · next ha =>
    unfold generatorStep at h
    split at h
    · next ht => cases h; exact .inr (.inr (.inl ⟨ha, ht, rfl⟩))
    · next ht => cases h; exact .inr (.inr (.inr (.inl ⟨ha, by simpa using ht, rfl⟩)))
  · next ha =>
    refine .inr (.inr (.inr (.inr ?_)))
    unfold executorStep at h
    split at h
    · next hs =>
      split at h
      · next i hi => exact .inr (.inl ⟨ha, hs, i, hi, h⟩)
      · next hi => cases h; exact .inl ⟨ha, hs, hi, rfl⟩
    · next hs => cases h; exact .inr (.inr ⟨ha, by simp [hs], rfl⟩)
    · next r hs =>
      split at h
      · cases h
      · cases h; exact .inr (.inr ⟨ha, by simp [hs], rfl⟩)

end Sys2Proof.Machine
end

