-- ==== Sys2Proof/Tests/Slice0.lean ====
section
/-! SUPPORT. Tests whose expected values come from spec/95_test_vectors.md and the rules' examples, and witnesses that
the statements' hypotheses can be met. -/

namespace Sys2Proof.Tests

open Sys2Proof Sys2Proof.Machine

/-! ### Small states -/

/-- The W = 64 register file of 95_test_vectors.md section 4.1. -/
def file64 : Vector (Word 64) 8 :=
  #v[0x0123456789ABCDEF, 0xFFFFFFFFFFFFFFFF, 0x8000000000000000, 3, 5, 0x40, 0x41, 0xFEDCBA9876543210]

/-- The W = 32 register file of 95_test_vectors.md section 4.1. -/
def file32 : Vector (Word 32) 8 := #v[0x89ABCDEF, 0xFFFFFFFF, 0, 3, 5, 0x20, 0x21, 0x76543210]

/-- An execute call under way on the given Program and registers. -/
def running {w : Nat} (x : Vector (Word w) 8) (p : List Instr) : State :=
  { State.resetAt w with regs := x, prog := p, agent := .executor }

/-- A Host that makes one execute call. -/
def calling (p : Option (List RawRecord)) : State :=
  { State.reset with calls := [.execute p (some #v[3, 0, 0, 0]) #v[5, 6, 7, 8]] }

/-- x[r] and the pc after a step that answers a next state. -/
def after (r : Fin 8) : Host.Outcome State Fault Refusal → Option (Nat × Nat)
  | .next t => some (t.x r, t.pc)
  | .fault _ => none
  | .refused _ => none

/-- Both widths' x[r] after one instruction on the two files, each with pc = 1. -/
def both (i : Instr) (r : Fin 8) : Option (Nat × Nat) × Option (Nat × Nat) :=
  (after r (step (running file64 [i, .ret 0 0 0])), after r (step (running file32 [i, .ret 0 0 0])))

/-! ### One instruction (section 4.1) -/

theorem test_mul_wraps : both (.mul 3 7 0) 3 = (some (0xFC962FC962FC9630, 1), some (0x62FC9630, 1)) := by decide
theorem test_mul_squares : both (.mul 1 1 0) 1 = (some (1, 1), some (1, 1)) := by decide
theorem test_add_most_negative :
    both (.add 0 4 0x80) 0 = (some (0x0123456789ABCD74, 1), some (0x89ABCD74, 1)) := by decide
theorem test_add_same_register : both (.add 3 3 127) 3 = (some (0x85, 1), some (0x85, 1)) := by decide
theorem test_sub_borrow : both (.sub 3 1 0) 3 = (some (4, 1), some (4, 1)) := by decide
theorem test_sub_wraps :
    both (.sub 2 3 0) 2 = (some (0x7FFFFFFFFFFFFFFD, 1), some (0xFFFFFFFD, 1)) := by decide
theorem test_ror_by_3 : both (.ror 0 3 0) 0 = (some (0xE02468ACF13579BD, 1), some (0xF13579BD, 1)) := by decide
theorem test_ror_by_width : both (.ror 0 5 0) 0 = (some (0x0123456789ABCDEF, 1), some (0x89ABCDEF, 1)) := by decide
theorem test_rol_by_3 : both (.rol 0 3 0) 0 = (some (0x091A2B3C4D5E6F78, 1), some (0x4D5E6F7C, 1)) := by decide
theorem test_rol_low_bits_of_amount :
    both (.rol 0 7 0) 0 = (some (0x456789ABCDEF0123, 1), some (0xCDEF89AB, 1)) := by decide
theorem test_xor_top_bit : both (.xor 1 2 0) 1 = (some (0x7FFFFFFFFFFFFFFF, 1), some (0xFFFFFFFF, 1)) := by decide
theorem test_xor_same_register_is_zero : both (.xor 0 0 0) 0 = (some (0, 1), some (0, 1)) := by decide
theorem test_ret_first_halts :
    step (running file64 [.ret 0 0 0, .xor 0 7 0]) =
      .next { running file64 [.ret 0 0 0, .xor 0 7 0] with status := .halted } := rfl
theorem test_ret_ignores_fields :
    exec (.ret 3 7 0xFF) (running file64 []) = .next { running file64 [] with status := .halted } := rfl

/-! ### Well-formedness refuses each ill-formed record and Program (R40) -/

theorem test_wf_refuses_constant_outside_add :
    [Instr.mul 0 1 1, .sub 0 1 1, .ror 0 1 1, .rol 0 1 1, .xor 0 1 1].all (fun i => !i.wellFormed) = true := by decide
theorem test_wf_refuses_self_conflict :
    [Instr.sub 2 2 0, .xor 3 3 0].all (fun i => !i.wellFormed) = true := by decide
theorem test_wf_refuses_ret_fields :
    [Instr.ret 1 0 0, .ret 0 1 0, .ret 0 0 1].all (fun i => !i.wellFormed) = true := by decide
theorem test_wf_accepts :
    [Instr.mul 0 0 0, .add 0 0 0x80, .sub 0 4 0, .ror 3 3 0, .rol 0 7 0, .xor 3 7 0, .ret 0 0 0].all
      (fun i => i.wellFormed) = true := by decide
theorem test_program_wf :
    ProgramWF [.mul 0 0 0, .ret 0 0 0] ∧ ¬ ProgramWF [] ∧ ¬ ProgramWF [.mul 0 0 0] ∧
      ¬ ProgramWF [.ret 0 0 0, .mul 0 0 0] ∧ ¬ ProgramWF [.ret 0 0 0, .ret 0 0 0] ∧
      ¬ ProgramWF [.sub 0 0 0, .ret 0 0 0] := by decide
theorem test_program_wf_length :
    ProgramWF (List.replicate 109 (.mul 0 0 0) ++ [.ret 0 0 0]) ∧
      ¬ ProgramWF (List.replicate 110 (.mul 0 0 0) ++ [.ret 0 0 0]) := by decide

/-! ### Decoding words written out from the spec (R71, R73, R106, section 2.1; P1 of section 5) -/

theorem test_decode_mul : decodeByte 0b10000000 = .mul 0 4 0 ∧ decodeByte 0b10000001 = .mul 0 4 0 ∧
    decodeByte 0b10000010 = .mul 0 4 0 := by decide
theorem test_decode_add : decodeStream [0b00001011, 0b11111110, 0] = .ok (.add 1 0 (-2), [0]) := by decide
theorem test_decode_sub : decodeByte 0b00110100 = .sub 2 1 0 ∧ decodeByte 0b01010100 = .sub 2 6 0 := by decide
theorem test_decode_ror : decodeByte 0b10111101 = .ror 3 5 0 := by decide
theorem test_decode_rol : decodeByte 0b11000110 = .rol 0 6 0 := by decide
theorem test_decode_xor : decodeByte 0b11101111 = .xor 1 7 0 ∧ decodeByte 0b01111111 = .xor 3 7 0 := by decide
theorem test_decode_ret : decodeSerial [6, 0, 0, 0] = .ok (Instr.retRecord, []) := by decide
theorem test_decode_refuses_by_name :
    decodeStream [] = .error .endOfBytes ∧ decodeStream [3] = .error .truncated ∧
      decodeRecord ⟨7, 0, 0, 0⟩ = .error .opOutOfRange ∧ decodeRecord ⟨0, 4, 0, 0⟩ = .error .dstOutOfRange ∧
      decodeRecord ⟨0, 0, 8, 0⟩ = .error .srcOutOfRange ∧
      decodeRecord ⟨1, 0, 0, 128⟩ = .error .constantOutOfRange ∧
      decodeRecord ⟨1, 0, 0, -129⟩ = .error .constantOutOfRange := by decide
/-- G4's first three records and G5's first (section 3.2). -/
theorem test_encode_serialization :
    encodeProgram [.add 0 0 (-1), .add 1 1 (-128), .add 2 2 127, .sub 0 4 0] =
      [1, 0, 0, 0xFF, 1, 1, 1, 0x80, 1, 2, 2, 0x7F, 2, 0, 4, 0] := by decide
/-- R86. -/
theorem test_assembly :
    assembly (.add 1 0 (-2)) = some "ADD r1, r0, -2" ∧ assembly (.ret 0 0 0) = some "RET" := by decide
theorem test_table_words :
    decodeTableWord 8 0x00 = some (.mul 0 0 0) ∧ decodeTableWord 8 0x03 = some (.add 0 0 0) ∧
      decodeTableWord 16 0xFE0B = some (.add 1 0 (-2)) ∧ decodeTableWord 32 0x06 = some Instr.retRecord := by decide
theorem test_fetch_word_runs_first :
    after 0 (step (State.reset.withFetchWord 8 0x03)) = some (0, 1) ∧
      step (State.reset.withFetchWord 32 0x06) =
        .next { State.reset.withFetchWord 32 0x06 with status := .halted } := by
  exact ⟨by decide, rfl⟩

/-! ### The byte source and the scheduler (sections 2.2, 2.3, 3.1) -/

theorem test_constant_bytes :
    [(0x00 : Byte), 0x7F, 0x80, 0x85, 0xFE, 0xFF].map BitVec.toInt = [0, 127, -128, -123, -2, -1] := by decide
/-- Vector S1: the seed of context 1806260. -/
theorem test_seed : ((seed 1806260).toList.take 9) = [0xB4, 0x8F, 0x1B, 0, 0, 0, 0, 0, 0] := by decide
/-- Vector S3: 32 bytes of 1, then 2. -/
theorem test_stream_refills :
    [0, 31, 32, 63, 64].map (stream (fun b => Vector.ofFn fun i => b[i] + 1) 0) = [1, 1, 2, 2, 3] := by decide

/-- The empty busy table, and it with cells marked. -/
def empty : Vector (Vector Bool 2) 54 := GenState.blank.busy

theorem test_search_empty :
    search empty (.add 0 0 0) 0 = some (0, 1) ∧ search empty (.mul 0 0 0) 0 = some (0, 0) := by decide
theorem test_search_lane_fallback :
    search (markBusy empty 0 1) (.add 0 0 0) 0 = some (0, 0) ∧
      search (markBusy (markBusy empty 0 1) 0 0) (.sub 0 1 0) 0 = some (1, 1) ∧
      search (markBusy empty 0 0) (.mul 0 0 0) 0 = some (1, 0) := by decide
theorem test_search_past_budget :
    search empty (.xor 0 1 0) 53 = some (53, 1) ∧ search empty (.xor 0 1 0) 54 = none := by decide

/-- A Generator whose r0 completes at the given slot. -/
def busyUntil (n : Nat) : GenState := { GenState.blank with lat := #v[n, 0, 0, 0] }

theorem test_placement_budget :
    placement (busyUntil 51) (.mul 0 0 0) = some (51, 0) ∧ placement (busyUntil 52) (.mul 0 0 0) = none ∧
      placement (busyUntil 53) (.xor 0 4 0) = some (53, 1) ∧ placement (busyUntil 54) (.xor 0 4 0) = none := by decide

/-- A Refill that fills the buffer with one byte. -/
def fillWith (b : Byte) : Bytes32 → Bytes32 := fun _ => Vector.replicate 32 b

/-- Vector G2's first step: ADD r0, r0, 3 at (0, lane 1), two bytes read. -/
theorem test_attempt_places_add :
    attempt (fillWith 3) (GenState.start 0) =
      { GenState.blank with
        buf := Vector.replicate 32 3, cursor := 2, lat := #v[1, 0, 0, 0], busy := markBusy empty 0 1
        code := [.add 0 0 3] } := by decide
/-- Vector G6: an ADD that fails reads no C byte. -/
theorem test_attempt_failure_reads_one_byte :
    attempt (fillWith 3) (busyUntil 54) =
      { busyUntil 54 with buf := Vector.replicate 32 3, cursor := 1, fail := 1 } := by decide

/-! ### The machine -/

/-- Section 4.2: one MUL and no RET; the second step faults the call, the third stops the machine. -/
def offEnd : State := { running file64 [.mul 0 0 0] with pc := 1 }

theorem test_run_off_end : step offEnd = .next { offEnd with status := .faulted .runOffEnd } := rfl
theorem test_faulted_stops :
    step { offEnd with status := .faulted .runOffEnd } = .fault .runOffEnd := rfl
theorem test_width_refused : step (State.resetAt 16) = .refused .unsupportedWidth := rfl
theorem test_shared_refused :
    step { State.reset with concurrent := [⟨7, 1, 9⟩] } = .refused .sharedBuffers ∧
      step { State.reset with concurrent := [⟨1, 7, 8⟩] } = .refused .sharedBuffers ∧
      step { State.reset with concurrent := [⟨3, 4, 5⟩, ⟨6, 4, 8⟩] } = .refused .sharedBuffers ∧
      step { State.reset with concurrent := [⟨3, 4, 5⟩, ⟨6, 7, 8⟩] } =
        .next { State.reset with concurrent := [⟨3, 4, 5⟩, ⟨6, 7, 8⟩] } := ⟨rfl, rfl, rfl, rfl⟩
theorem test_long_sequence_refused :
    step (calling (some (List.replicate 111 ⟨0, 0, 0, 0⟩))) = .refused .programTooLong := by rfl
theorem test_malformed_record_refused :
    step (calling (some [⟨0, 4, 0, 0⟩])) = .refused (.malformedRecord .dstOutOfRange) := rfl
/-- R39, R177: an entry after the first RET is not inspected, and the Program buffer is not written. -/
theorem test_entries_after_ret_not_inspected :
    step { calling (some [⟨6, 0, 0, 0⟩, ⟨7, 9, 9, 999⟩]) with prog := [.mul 0 0 0, .ret 0 0 0] } =
      .next { State.reset with
        prog := [.mul 0 0 0, .ret 0 0 0], ref := .own [.ret 0 0 0], regs := #v[3, 0, 0, 0, 5, 6, 7, 8]
        agent := .executor } := rfl
theorem test_execute_call_loads :
    after 4 (step (calling (some [⟨6, 0, 0, 0⟩]))) = some (5, 0) ∧ after 0 (step (calling none)) = some (3, 0) := by
  decide

/-! ### Witnesses: for each statement with hypotheses, a concrete case that meets them all -/

/-- The storage of reset is three distinct buffers. -/
theorem reset_storage_nodup : State.reset.storage.Nodup := by decide

theorem running_launchable {x : Vector (Word 64) 8} (p : List Instr) : (running x p).Launchable :=
  ⟨.inr rfl, reset_storage_nodup⟩

theorem running_executing {x : Vector (Word 64) 8} (p : List Instr) : (running x p).Executing :=
  ⟨running_launchable p, rfl, rfl⟩

/-- An execute call under way on a caller's own sequence. -/
def runningOwn (p : List Instr) : State := { running file64 [] with ref := .own p }

theorem runningOwn_executing (p : List Instr) : (runningOwn p).Executing :=
  ⟨running_launchable (x := file64) p, rfl, rfl⟩

/-- A Host that makes the given calls. -/
def asking (calls : List (HostCall 64)) : State := { State.reset with calls := calls }

theorem asking_launchable (calls : List (HostCall 64)) : (asking calls).Launchable :=
  ⟨.inr rfl, reset_storage_nodup⟩

/-- A Generator under way. -/
def generating (w : Nat) (g : GenState) : State := { State.resetAt w with gen := g, agent := .generator }

/-- A machine refused for a shared register file. -/
def sharing : State := { State.reset with concurrent := [⟨7, 1, 9⟩] }

/-- A machine refused for two others, the register file of one being the Program buffer of the other. -/
def sharingOthers : State := { State.reset with concurrent := [⟨3, 4, 5⟩, ⟨6, 3, 8⟩] }

/-- Raw opcodes of the decode clauses of the seven instruction statements, at the ends of MUL's range too. -/
theorem witness_raw_opcodes :
    [(0x00 : Byte), 0x02, 0x03, 0x04, 0x05, 0x06, 0x07].map (fun b => (rawField b).val) = [0, 2, 3, 4, 5, 6, 7] := by
  decide

/-- SUB and XOR with and without a collision (SubDifferenceModWidth, XorBitwise, DecodedSubXorDistinct). -/
theorem witness_collision :
    decodeByte 0x2C = .sub 1 5 0 ∧ decodeByte 0x34 = .sub 2 1 0 ∧ decodeByte 0x57 = .xor 2 6 0 ∧
      decodeByte 0x9F = .xor 3 4 0 ∧ decodeByte 0x28 = .mul 1 1 0 := by decide

theorem witness_OperativeWritesOneRegister : ∃ (i : Instr) (s t : State), i.isRet = false ∧ exec i s = .next t :=
  ⟨.mul 3 7 0, running file64 [], _, rfl, rfl⟩

theorem witness_PcAdvancesUnlessRet :
    (∃ (i : Instr) (s t : State), exec i s = .next t ∧ i.isRet = false) ∧
      ∃ (i : Instr) (s t : State), exec i s = .next t ∧ i.isRet = true :=
  ⟨⟨.add 0 4 1, running file64 [], _, rfl, rfl⟩, ⟨.ret 0 0 0, running file64 [], _, rfl, rfl⟩⟩

theorem witness_NeverGeneratedRecordsExecute :
    (Instr.mul 0 0 1).opcode ≠ .add ∧ (Instr.ret 1 2 3).isRet = true ∧ Instr.retRecord.isRet = true := by decide

theorem witness_RotationAmountModWidth :
    (∃ (s t : State) (d d' : Fin 4) (r r' : Fin 8), s.width = t.width ∧ s.x (varReg d) = t.x (varReg d') ∧
      s.x r % s.width = t.x r' % t.width ∧ s.x r ≠ t.x r') ∧
    (running file64 []).x 5 % (running file64 []).width = 0 ∧
      (running file32 []).x 5 % (running file32 []).width = 0 :=
  ⟨⟨running file64 [], { running file64 [] with regs := file64.set 3 67 }, 0, 0, 3, 3, rfl, by decide, by decide,
    by decide⟩, by decide, by decide⟩

theorem witness_RotationMovesBits : 0 < (running file64 []).width ∧ 63 < (running file64 []).width := by decide

theorem witness_ExecutorIgnoresGenerator :
    ∃ (i : Instr) (s t : State), exec i s = .next t ∧ s.gen ≠ busyUntil 54 :=
  ⟨.xor 0 7 0, running file64 [], _, rfl, by decide⟩

theorem witness_StepRunsFetchedInstruction :
    (∃ (s : State) (i : Instr), s.Executing ∧ s.ref = .buffer ∧ s.prog[s.pc]? = some i) ∧
      ∃ (s : State) (p : List Instr) (i : Instr), s.Executing ∧ s.ref = .own p ∧ p[s.pc]? = some i :=
  ⟨⟨running file64 [.rol 0 3 0], .rol 0 3 0, running_executing _, rfl, rfl⟩,
    ⟨runningOwn [.ror 0 3 0], [.ror 0 3 0], .ror 0 3 0, runningOwn_executing _, rfl, rfl⟩⟩

theorem witness_RunOffEndFaults : ∃ s : State, s.Executing ∧ s.program.length ≤ s.pc :=
  ⟨running file64 [], running_executing _, Nat.le_refl 0⟩

theorem witness_FinishedCallReturnsOrFaults :
    (∃ s : State, s.Launchable ∧ s.agent = .executor ∧ s.status = .halted) ∧
    (∃ s : State, s.Launchable ∧ s.agent = .executor ∧ s.status = .faulted .runOffEnd ∧ s.calls = []) ∧
    ∃ s : State, s.Launchable ∧ s.agent = .executor ∧ s.status = .faulted .runOffEnd ∧ s.calls ≠ [] :=
  ⟨⟨{ running file64 [] with status := .halted }, running_launchable (x := file64) [], rfl, rfl⟩,
    ⟨{ running file64 [] with status := .faulted .runOffEnd }, running_launchable (x := file64) [], rfl, rfl, rfl⟩,
    ⟨{ running file64 [] with status := .faulted .runOffEnd, calls := [.generate 0] }, running_launchable (x := file64) [], rfl, rfl,
      by decide⟩⟩

theorem witness_ExecuteRunsToFirstRet :
    ∃ (s : State) (body tail : List Instr) (i : Instr), s.Executing ∧ s.pc = 0 ∧ s.program = body ++ i :: tail ∧
      (∀ j ∈ body, j.isRet = false) ∧ i.isRet = true :=
  ⟨running file64 [.mul 0 0 0, .ret 0 0 0, .mul 0 0 0], [.mul 0 0 0], [.mul 0 0 0], .ret 0 0 0,
    running_executing _, rfl, rfl, by decide, rfl⟩

theorem witness_ExecuteWithoutRetFaults :
    ∃ s : State, s.Executing ∧ s.pc = 0 ∧ ∀ j ∈ s.program, j.isRet = false :=
  ⟨running file64 [.mul 0 0 0], running_executing _, rfl, by decide⟩

theorem witness_RecordsAfterRetIrrelevant_run :
    ∃ (s t : State) (prog' : List Instr) (ref' : ProgramRef) (body tail tail' : List Instr) (i : Instr) (n : Nat),
      s.Executing ∧ s.pc = 0 ∧ s.program = body ++ i :: tail ∧
      ({ s with prog := prog', ref := ref' } : State).program = body ++ i :: tail' ∧
      (∀ j ∈ body, j.isRet = false) ∧ i.isRet = true ∧ n ≤ body.length + 1 ∧ run n s = .next t ∧ tail ≠ tail' :=
  ⟨running file64 [.ret 0 0 0, .xor 0 7 0], _, [], .own [.ret 0 0 0], [], [.xor 0 7 0], [], .ret 0 0 0, 1,
    running_executing _, rfl, rfl, rfl, by decide, rfl, Nat.le_refl 1, rfl, by decide⟩

theorem witness_RecordsAfterRetIrrelevant_call :
    ∃ (s t : State) (body tail tail' : List RawRecord) (r : RawRecord) (vars : Option (Vector (Word s.width) 4))
      (consts : Vector (Word s.width) 4) (rest : List (HostCall s.width)), s.agent = .host ∧
      s.calls = .execute (some (body ++ r :: tail)) vars consts :: rest ∧ r.op = 6 ∧
      (body ++ r :: tail).length ≤ 110 ∧ (body ++ r :: tail').length ≤ 110 ∧ tail ≠ tail' ∧ step s = .next t :=
  ⟨asking [.execute (some [⟨0, 1, 7, 0⟩, ⟨6, 0, 0, 0⟩, ⟨7, 9, 9, 999⟩]) none #v[1, 2, 3, 4]], _, [⟨0, 1, 7, 0⟩],
    [⟨7, 9, 9, 999⟩], [], ⟨6, 0, 0, 0⟩, none, #v[1, 2, 3, 4], [], rfl, rfl, rfl, by decide, by decide, by decide, rfl⟩

/-- Also GenerateCallReturnsProgram's. -/
theorem witness_GenerateCallStarts :
    ∃ (s : State) (context : BitVec 64) (rest : List (HostCall s.width)), s.Launchable ∧ s.agent = .host ∧
      s.calls = .generate context :: rest :=
  ⟨asking [.generate 1806260], 1806260, [], asking_launchable _, rfl, rfl⟩

/-- A sequence with no RET, and one with an entry after its RET. -/
theorem witness_ExecuteCallStarts_own :
    (∃ (s : State) (consts : Vector (Word s.width) 4) (p : List Instr), s.Launchable ∧
      s.agent = .host ∧ s.calls = [.execute (some (p.map Instr.raw ++ [])) none consts] ∧ p.length ≤ 110 ∧
      ∀ j ∈ p.dropLast, j.isRet = false) ∧
    ∃ (s : State) (consts : Vector (Word s.width) 4) (p : List Instr) (tail : List RawRecord), s.Launchable ∧
      s.agent = .host ∧ s.calls = [.execute (some (p.map Instr.raw ++ tail)) none consts] ∧
      p.length + tail.length ≤ 110 ∧ (∀ j ∈ p.dropLast, j.isRet = false) ∧
      (∃ i, p.getLast? = some i ∧ i.isRet = true) ∧ tail ≠ [] :=
  ⟨⟨asking [.execute (some ([Instr.sub 1 1 7].map Instr.raw ++ [])) none #v[1, 2, 3, 4]], #v[1, 2, 3, 4],
      [.sub 1 1 7], asking_launchable _, rfl, rfl, by decide, by decide⟩,
    ⟨asking [.execute (some ([Instr.sub 1 1 7, .ret 3 0 0].map Instr.raw ++ [⟨7, 0, 0, 0⟩])) none #v[1, 2, 3, 4]],
      #v[1, 2, 3, 4], [.sub 1 1 7, .ret 3 0 0], [⟨7, 0, 0, 0⟩], asking_launchable _, rfl, rfl, by decide, by decide,
      ⟨_, rfl, rfl⟩, by decide⟩⟩

/-- Also OnlyHostLoadsConstants's. -/
theorem witness_ExecuteCallStarts_buffer :
    ∃ (s t : State) (vars : Option (Vector (Word s.width) 4)) (consts : Vector (Word s.width) 4)
      (rest : List (HostCall s.width)), s.Launchable ∧ s.agent = .host ∧
      s.calls = .execute none vars consts :: rest ∧ step s = .next t ∧ t.x 4 ≠ s.x 4 :=
  ⟨asking [.execute none none #v[1, 2, 3, 4]], _, none, #v[1, 2, 3, 4], [], asking_launchable _, rfl, rfl, rfl,
    by decide⟩

theorem witness_LaunchRefusals :
    (State.resetAt 16).width ≠ 32 ∧ (State.resetAt 16).width ≠ 64 ∧
    (sharing.width = 64 ∧ [sharing.buffers, ⟨7, 1, 9⟩].Sublist (sharing.buffers :: sharing.concurrent)) ∧
    (sharingOthers.width = 64 ∧
      [⟨3, 4, 5⟩, ⟨6, 3, 8⟩].Sublist (sharingOthers.buffers :: sharingOthers.concurrent)) ∧
    110 < (List.replicate 111 (⟨0, 0, 0, 0⟩ : RawRecord)).length ∧
    (∃ (pre post : List RawRecord) (r : RawRecord),
      [⟨0, 4, 0, 0⟩, ⟨6, 0, 0, 0⟩] = pre ++ r :: post ∧ (∀ q ∈ pre, q.op ≠ 6) ∧ ¬ InRange r) ∧
    (∃ (pre post : List RawRecord) (r : RawRecord),
      [⟨1, 0, 0, 5⟩, ⟨6, 0, 8, 0⟩, ⟨0, 0, 0, 0⟩] = pre ++ r :: post ∧ (∀ q ∈ pre, q.op ≠ 6) ∧ ¬ InRange r) := by
  refine ⟨by decide, by decide, by decide, by decide, by decide, ⟨[], [⟨6, 0, 0, 0⟩], ⟨0, 4, 0, 0⟩, rfl, by decide, ?_⟩,
    ⟨[⟨1, 0, 0, 5⟩], [⟨0, 0, 0, 0⟩], ⟨6, 0, 8, 0⟩, rfl, by decide, ?_⟩⟩
  · intro h; exact absurd h.2.1 (by decide)
  · intro h; exact absurd h.2.2.1 (by decide)

/-- LaunchRefusals on a computation whose Program buffer and register file are one. -/
theorem witness_LaunchRefusals_self :
    ({ State.reset with buffers := ⟨4, 4, 5⟩ } : State).width = 64 ∧
      (⟨4, 4, 5⟩ : Buffers).program = (⟨4, 4, 5⟩ : Buffers).registers := by decide

theorem witness_FixedThroughoutTheRun :
    (∃ s t : State, step s = .next t ∧ s.agent = .executor) ∧
    (∃ s t : State, step s = .next t ∧ s.agent = .host ∧ t.prog ≠ s.prog) ∧
    ∃ s t : State, step s = .next t ∧ s.agent = .generator ∧ t.prog ≠ s.prog :=
  ⟨⟨running file64 [.mul 0 0 0], _, rfl, rfl⟩,
    ⟨{ asking [.generate 0] with prog := [.ret 0 0 0] }, _, rfl, rfl, by decide⟩,
    ⟨generating 64 { GenState.blank with fail := 64 }, _, rfl, rfl, by decide⟩⟩

/-- ResetLeaves's wait clause, in another state than reset. -/
theorem witness_ResetLeaves :
    ∃ s : State, s.Launchable ∧ s.agent = .host ∧ s.calls = [] ∧ s ≠ State.reset :=
  ⟨{ asking [] with pc := 3, status := .halted }, asking_launchable [], rfl, rfl, by decide⟩

theorem witness_SignedConstantByte : (Instr.add 0 0 0).opcode = .add ∧ (0x7F : Byte).toNat < 128 ∧
    ¬ (0x80 : Byte).toNat < 128 := by decide

theorem witness_CanonicalRoundTrip : decodeSerial [5, 1, 7, 0, 6] = .ok (.xor 1 7 0, [6]) := by decide

theorem witness_CompactRoundTrip :
    (Instr.add 0 0 0x80).wellFormed = true ∧ (Instr.add 0 0 0x80).isRet = false ∧
      (Instr.xor 3 7 0).wellFormed = true ∧ (Instr.xor 3 7 0).isRet = false := by decide

theorem witness_RecordsAcceptedExactlyInRange :
    InRange ⟨6, 3, 7, -128⟩ ∧ InRange ⟨0, 0, 0, 127⟩ ∧ ¬ InRange ⟨0, 0, 0, 128⟩ := by
  refine ⟨by unfold InRange; decide, by unfold InRange; decide, ?_⟩
  intro h; exact absurd h.2.2.2.2 (by decide)

theorem witness_NextByteRefills :
    ({ GenState.blank with cursor := 31 } : GenState).cursor.val < 32 ∧ GenState.blank.cursor.val = 32 := by decide

/-- Also PlacementUpdates's and CompletedRegisterBlocks's. -/
theorem witness_AttemptByteCount_placed :
    ∃ (g g1 g2 : GenState) (b c : Byte), nextByte (fillWith 3) g = (b, g1) ∧ nextByte (fillWith 3) g1 = (c, g2) ∧
      placement g1 (decodeByte b) = some (0, 1) ∧ (decodeByte b).takesConstant = true :=
  ⟨GenState.start 0, _, _, 3, 3, rfl, rfl, by decide, by decide⟩

/-- Also FailureOnlyCounts's. -/
theorem witness_AttemptByteCount_failed :
    ∃ (g g1 : GenState) (b : Byte), nextByte (fillWith 3) g = (b, g1) ∧ placement g1 (decodeByte b) = none :=
  ⟨busyUntil 54, _, 3, rfl, by decide⟩

theorem witness_SimulatedLatencies :
    (Instr.mul 0 0 0).opcode = .mul ∧ (Instr.ror 0 0 0).opcode ≠ .mul ∧ (Instr.ror 0 0 0).opcode ≠ .ret ∧
      Instr.retRecord.isRet = true := by decide

theorem witness_StartSlotIsLaterReadiness :
    (Instr.mul 0 3 0).src.val < 4 ∧ 4 ≤ (Instr.mul 0 4 0).src.val ∧ (Instr.mul 3 3 0).src = varReg 3 ∧
      ∀ r : Fin 4, (busyUntil 54).lat[r] ≤ 54 := by decide

theorem witness_PlacementCondition :
    search empty (.mul 0 0 0) 51 = some (51, 0) ∧ search empty (.mul 0 0 0) 52 = some (52, 0) ∧
      (Instr.xor 0 4 0).opcode ≠ .mul ∧ startSlot (busyUntil 52).lat (.mul 0 0 0) = 52 := by decide

theorem witness_GeneratorTurn :
    (generating 64 { GenState.blank with fail := 64 }).Launchable ∧
      terminated { GenState.blank with fail := 64 } = true ∧ (generating 64 GenState.blank).Launchable ∧
      terminated GenState.blank = false :=
  ⟨⟨.inr rfl, by decide⟩, by decide, ⟨.inr rfl, by decide⟩, by decide⟩

/-- G2's state after one step, whose invariant is not the empty call's. -/
def oneAdd : GenState :=
  { GenState.blank with cursor := 2, lat := #v[1, 0, 0, 0], busy := markBusy empty 0 1, code := [.add 0 0 3] }

/-- Also OnlyRetryCapEndsGeneration's. -/
theorem witness_GeneratorInvariantKept : oneAdd.Inv ∧ terminated oneAdd = false :=
  ⟨⟨by decide, by decide, by decide, by decide, by decide⟩, by decide⟩

theorem witness_StepKeepsMachineInvariant : ∃ s t : State, s.Inv ∧ step s = .next t ∧ t ≠ s :=
  ⟨generating 64 { oneAdd with fail := 64 }, { State.reset with prog := [.add 0 0 3, .ret 0 0 0] },
    ⟨by decide, by decide, by decide, by decide, fun r h => absurd h (by decide),
      ⟨by decide, by decide, by decide, by decide, by decide⟩, by decide⟩, rfl, by decide⟩

theorem witness_CompletedRegisterBlocks :
    (busyUntil 54).lat[(Instr.mul 0 4 0).dst] = 54 ∧
      ∃ h : (Instr.add 1 0 0).src.val < 4, (busyUntil 54).lat[(Instr.add 1 0 0).src.val] = 54 := by decide

theorem witness_BusyCellsOnePerPlacement : oneAdd.busy[0][1] = true := by decide

theorem witness_HashComputationEnds :
    ∃ (s : State) (context : BitVec 64) (vars consts : Vector (Word s.width) 4) (x : Vector (Word s.width) 8),
      s.Launchable ∧ s.agent = .host ∧ s.calls = [.generate context, .execute none (some vars) consts] ∧
      ∀ i : Fin 4, x[i.val] = vars[i] ∧ x[i.val + 4] = consts[i] :=
  ⟨asking [.generate 7, .execute none (some #v[1, 2, 3, 4]) #v[5, 6, 7, 8]], 7, #v[1, 2, 3, 4], #v[5, 6, 7, 8],
    #v[1, 2, 3, 4, 5, 6, 7, 8], asking_launchable _, rfl, rfl, by decide⟩

theorem witness_GeneratorIgnoresWidth :
    ∃ s t : State, s.Launchable ∧ t.Launchable ∧ s.agent = .generator ∧ t.agent = .generator ∧ s.gen = t.gen ∧
      s.width ≠ t.width :=
  ⟨generating 32 oneAdd, generating 64 oneAdd, ⟨.inl rfl, by decide⟩, ⟨.inr rfl, by decide⟩,
    rfl, rfl, rfl, by decide⟩

end Sys2Proof.Tests
end

section
/-! PROOFS. The family 30_encoding.md: how many stream bytes a decode attempt takes (R75), that no byte or record is
illegal (R74, R231), and the collision fix on decoded records (R83). -/

namespace Sys2Proof

/-! ### The decoder -/

/-- Raw 3 alone selects an ADD (R105). -/
theorem mapOp_eq_add_iff (raw : Fin 8) : mapOp raw = .add ↔ raw.val = 3 := by
  revert raw; decide

/-- A byte's record takes a C exactly when the byte's raw opcode is 3 (R75). -/
theorem decodeByte_takesConstant_iff (b : Byte) : (decodeByte b).takesConstant = true ↔ (rawField b).val = 3 := by
  rw [Instr.takesConstant_eq, decide_eq_true_iff, decodeByte_opcode, mapOp_eq_add_iff]

/-- No compact byte is a RET (R79). -/
@[simp] theorem decodeByte_isRet (b : Byte) : (decodeByte b).isRet = false := by
  rw [Instr.isRet_eq, decide_eq_false_iff_not, decodeByte_opcode]
  exact mapOp_ne_ret _

theorem decodeStream_of_takesConstant {b : Byte} (h : (decodeByte b).takesConstant = true) (c : Byte)
    (rest : List Byte) : decodeStream (b :: c :: rest) = .ok ((decodeByte b).withConstant c, rest) := by
  simp [decodeStream, h]

theorem decodeStream_of_not_takesConstant {b : Byte} (h : (decodeByte b).takesConstant = false) (rest : List Byte) :
    decodeStream (b :: rest) = .ok (decodeByte b, rest) := by
  simp [decodeStream, h]

/-- SUB and XOR whose two fields name one register read x[dst + 4] (R106). -/
theorem fixCollision_of_collision {op : Opcode} {d : Fin 4} {r : Fin 8} (hop : op = .sub ∨ op = .xor)
    (hr : r.val = d.val) : (fixCollision op d r).val = d.val + 4 := by
  rw [fixCollision, if_pos ⟨hop, hr⟩]

theorem fixCollision_of_distinct (op : Opcode) {d : Fin 4} {r : Fin 8} (hr : r.val ≠ d.val) :
    fixCollision op d r = r :=
  if_neg fun h => hr h.2

theorem fixCollision_of_other {op : Opcode} (hsub : op ≠ .sub) (hxor : op ≠ .xor) (d : Fin 4) (r : Fin 8) :
    fixCollision op d r = r :=
  if_neg fun h => h.1.elim hsub hxor

/-- After the fix the source of a SUB or XOR is never its destination (R83). -/
theorem fixCollision_ne_dst {op : Opcode} (hop : op = .sub ∨ op = .xor) (d : Fin 4) (r : Fin 8) :
    (fixCollision op d r).val ≠ d.val := by
  by_cases hr : r.val = d.val
  · rw [fixCollision_of_collision hop hr]; omega
  · rwa [fixCollision_of_distinct op hr]

end Sys2Proof

namespace Sys2Proof.Machine

/-! ### Byte source and placement -/

variable (refill : Bytes32 → Bytes32)

/-- The constant of an ADD is the next stream byte (R107). -/
theorem fetchConstant_of_add {i : Instr} (h : i.takesConstant = true) (g : GenState) :
    fetchConstant refill i g = nextByte refill g := by simp [fetchConstant, h]

@[simp] theorem place_buf (i : Instr) (s : Fin 54) (l : Fin 2) (g : GenState) :
    (place refill i s l g).buf = (fetchConstant refill i g).2.buf := rfl

@[simp] theorem place_cursor (i : Instr) (s : Fin 54) (l : Fin 2) (g : GenState) :
    (place refill i s l g).cursor = (fetchConstant refill i g).2.cursor := rfl

/-- An attempt that places an ADD takes a second byte, its C (R75). -/
theorem attempt_placed_add {g g1 g2 : GenState} {b c : Byte} (h1 : nextByte refill g = (b, g1))
    (h2 : nextByte refill g1 = (c, g2)) (hp : placement g1 (decodeByte b) ≠ none)
    (ha : (decodeByte b).takesConstant = true) :
    (attempt refill g).buf = g2.buf ∧ (attempt refill g).cursor = g2.cursor ∧
      (attempt refill g).code = g.code ++ [(decodeByte b).withConstant c] := by
  have hcode : g1.code = g.code := by simpa [h1] using nextByte_code refill g
  have hfetch : fetchConstant refill (decodeByte b) g1 = (c, g2) := by rw [fetchConstant_of_add refill ha, h2]
  obtain ⟨s, l, -, e⟩ | ⟨hnone, -⟩ := attempt_of_nextByte refill h1
  · simp [e, hfetch, hcode]
  · exact absurd hnone hp

/-- An attempt that fails, or whose record is no ADD, takes the compact byte alone (R75). -/
theorem attempt_one_byte {g g1 : GenState} {b : Byte} (h1 : nextByte refill g = (b, g1))
    (h : placement g1 (decodeByte b) = none ∨ (decodeByte b).takesConstant = false) :
    (attempt refill g).buf = g1.buf ∧ (attempt refill g).cursor = g1.cursor := by
  obtain ⟨s, l, hsome, e⟩ | ⟨-, e⟩ := attempt_of_nextByte refill h1
  · have ha : (decodeByte b).takesConstant = false := h.resolve_left (by simp [hsome])
    simp [e, fetchConstant_of_not_add refill ha]
  · rw [e]; exact ⟨rfl, rfl⟩

end Sys2Proof.Machine

namespace Sys2Proof.Proofs

open Sys2Proof.Machine

/-- Settles O40: the attempt's two outcomes are a placement, which fetches a C for ADD alone, and a failure. -/
theorem attemptByteCount : Obligations.AttemptByteCount :=
  ⟨decodeByte_takesConstant_iff, fun refill _ _ _ _ _ h1 h2 =>
    ⟨attempt_placed_add refill h1 h2, attempt_one_byte refill h1⟩⟩

/-- Settles O13: by whether the byte's record takes a C, and by the one equation of `exec`. -/
theorem everyByteDecodesEveryRecordExecutes : Obligations.EveryByteDecodesEveryRecordExecutes := by
  refine ⟨fun b c rest => ?_, fun i s => ⟨_, exec_eq i s⟩⟩
  cases h : (decodeByte b).takesConstant with
  | true => exact ⟨_, _, decodeStream_of_takesConstant h c rest, by simp⟩
  | false => exact ⟨_, _, decodeStream_of_not_takesConstant h (c :: rest), decodeByte_isRet b⟩

/-- Settles O30: the decoded source is the collision fix of the src field, which has three cases. -/
theorem decodedSubXorDistinct : Obligations.DecodedSubXorDistinct := by
  intro b
  rw [decodeByte_opcode, decodeByte_dst, decodeByte_src]
  exact ⟨fun hop => ⟨fixCollision_ne_dst hop _ _, fixCollision_of_collision hop, fixCollision_of_distinct _⟩,
    fun hsub hxor => fixCollision_of_other hsub hxor _ _⟩

end Sys2Proof.Proofs
end

section
/-! PROOFS. The family 40_decoder.md: MapOp (R105), the byte values the collision fix remaps (R106), and the
independence of the Generator from W (R109). -/

namespace Sys2Proof

/-! ### The compact byte -/

theorem rawField_val (b : Byte) : (rawField b).val = b.toNat % 8 := by
  simp [rawField, Nat.and_two_pow_sub_one_eq_mod _ 3]

theorem dstField_val (b : Byte) : (dstField b).val = b.toNat / 8 % 4 := by
  simp [dstField, Nat.shiftRight_eq_div_pow, Nat.and_two_pow_sub_one_eq_mod _ 2]

theorem srcField_val (b : Byte) : (srcField b).val = b.toNat / 32 := by
  have hb : b.toNat / 32 < 8 := by omega
  simp [srcField, Nat.shiftRight_eq_div_pow, Nat.and_two_pow_sub_one_eq_mod _ 3, Nat.mod_eq_of_lt hb]

/-- Raw 0 to 2 alone select a MUL, the boosted operation (R105). -/
theorem mapOp_eq_mul_iff (raw : Fin 8) : mapOp raw = .mul ↔ raw.val ≤ 2 := by
  revert raw; decide

/-- The raw opcodes of SUB and XOR, the operations the collision fix is for (R105, R106). -/
theorem mapOp_eq_sub_or_xor_iff (raw : Fin 8) :
    mapOp raw = .sub ∨ mapOp raw = .xor ↔ raw.val = 4 ∨ raw.val = 7 := by
  revert raw; decide

/-! ### The collision fix -/

theorem fixCollision_val (op : Opcode) (d : Fin 4) (r : Fin 8) :
    (fixCollision op d r).val = if (op = .sub ∨ op = .xor) ∧ r.val = d.val then d.val + 4 else r.val :=
  apply_ite Fin.val _ _ _

/-- The fix changes the source exactly where a SUB or XOR has its two fields equal (R106). -/
theorem fixCollision_ne_iff (op : Opcode) (d : Fin 4) (r : Fin 8) :
    fixCollision op d r ≠ r ↔ (op = .sub ∨ op = .xor) ∧ r.val = d.val := by
  rw [ne_eq, Fin.ext_iff, fixCollision_val]
  split
  · next h => exact iff_of_true (by omega) h
  · next h => exact iff_of_false (fun hne => hne rfl) h

/-- A byte is remapped exactly when its raw field is SUB's or XOR's and its other two fields are equal: one byte for
each of two raw opcodes and four destinations (R106). -/
theorem decodeByte_src_ne_srcField_iff (b : Byte) : (decodeByte b).src ≠ srcField b ↔
    (b.toNat % 8 = 4 ∨ b.toNat % 8 = 7) ∧ b.toNat / 32 = b.toNat / 8 % 4 := by
  rw [decodeByte_src, fixCollision_ne_iff, mapOp_eq_sub_or_xor_iff, rawField_val, srcField_val, dstField_val]

end Sys2Proof

namespace Sys2Proof.Machine

/-! ### The Generator's turn -/

theorem step_of_generator {s : State} (h : s.Launchable) (ha : s.agent = .generator) : step s = generatorStep s := by
  rw [step_of_launchable h, ha]

/-- A terminated Generator returns its Program and gives the Host the turn (R141, R148). -/
theorem generatorStep_of_terminated {s : State} (h : terminated s.gen = true) :
    generatorStep s = .next { s with prog := finishedProgram s.gen, gen := GenState.blank, agent := .host } :=
  if_pos h

/-- Before that, a step of the Generator is one decode attempt (R140). -/
theorem generatorStep_of_not_terminated {s : State} (h : terminated s.gen = false) :
    generatorStep s = .next { s with gen := attempt Config.refill s.gen } :=
  if_neg (by simp [h])

end Sys2Proof.Machine

namespace Sys2Proof.Proofs

open Sys2Proof.Machine

/-- Settles O59: whether the Generator stops, and what it attempts or returns, are functions of its own state, which
the two machines share. -/
theorem generatorIgnoresWidth : Obligations.GeneratorIgnoresWidth := by
  intro s t hs ht has hat hgen
  rw [step_of_generator hs has, step_of_generator ht hat]
  cases hterm : terminated s.gen with
  | true =>
    have hterm' : terminated t.gen = true := hgen ▸ hterm
    exact ⟨_, _, generatorStep_of_terminated hterm, generatorStep_of_terminated hterm', rfl, rfl,
      fun _ => congrArg finishedProgram hgen, fun _ => rfl, fun _ => rfl, rfl, rfl⟩
  | false =>
    have hterm' : terminated t.gen = false := hgen ▸ hterm
    have hhost : s.agent ≠ .host := by simp [has]
    exact ⟨_, _, generatorStep_of_not_terminated hterm, generatorStep_of_not_terminated hterm',
      congrArg (attempt Config.refill) hgen, has.trans hat.symm, fun h => absurd h hhost,
      fun _ => rfl, fun _ => rfl, rfl, rfl⟩

/-- Settles O28: MUL's three raw opcodes by their range, the other five by the equations of `mapOp`. -/
theorem rawOpcodeMap : Obligations.RawOpcodeMap :=
  ⟨fun raw => (mapOp_eq_mul_iff raw).mpr, rfl, rfl, rfl, rfl, rfl, mapOp_ne_ret⟩

/-- Settles O29: the eight byte values are raw + 8·d + 32·d for raw 4 and 7 and d from 0 to 3. -/
theorem collisionFixRemaps : Obligations.CollisionFixRemaps := by
  refine ⟨fixCollision_val, fun b => ?_⟩
  have hb : b.toNat < 256 := b.isLt
  rw [decodeByte_src_ne_srcField_iff]
  simp only [List.mem_cons, List.not_mem_nil, or_false]
  have hdst : b.toNat / 8 % 4 = 0 ∨ b.toNat / 8 % 4 = 1 ∨ b.toNat / 8 % 4 = 2 ∨ b.toNat / 8 % 4 = 3 := by omega
  rcases hdst with h | h | h | h <;> omega

end Sys2Proof.Proofs
end

section
/-! PROOFS. The family 41_scheduler.md: when an instruction is placed (R136), and what a failure changes (R138). -/

namespace Sys2Proof.Machine

/-! ### Latencies -/

/-- MUL takes three slots (R132). -/
theorem latency_of_mul {i : Instr} (h : i.opcode = .mul) : latency i = 3 := by
  cases i with
  | mul => rfl
  | _ => cases h

/-- Every other operation fits in the slot it starts in (R132). -/
theorem latency_le_one_of_ne_mul {i : Instr} (h : i.opcode ≠ .mul) : latency i ≤ 1 := by
  cases i with
  | mul => exact absurd rfl h
  | _ => exact Nat.le_of_ble_eq_true rfl

/-! ### Placement -/

/-- Placement is Search's cell, kept if the instruction completes within the budget (R136). -/
theorem placement_eq_filter (g : GenState) (i : Instr) :
    placement g i =
      (search g.busy i (startSlot g.lat i)).filter fun cell => decide (cell.1.val + latency i ≤ 54) := by
  unfold placement
  cases search g.busy i (startSlot g.lat i) with
  | none => rfl
  | some cell => simp [Option.filter_some]

theorem placement_eq_some_iff {g : GenState} {i : Instr} {s : Fin 54} {l : Fin 2} :
    placement g i = some (s, l) ↔
      search g.busy i (startSlot g.lat i) = some (s, l) ∧ s.val + latency i ≤ 54 := by
  rw [placement_eq_filter, Option.filter_eq_some_iff, decide_eq_true_iff]

/-- A cell Search found is refused exactly when the instruction would complete too late in it (R136). -/
theorem placement_eq_none_iff_of_search {g : GenState} {i : Instr} {s : Fin 54} {l : Fin 2}
    (h : search g.busy i (startSlot g.lat i) = some (s, l)) : placement g i = none ↔ 54 < s.val + latency i := by
  rw [placement_eq_filter, h, Option.filter_eq_none_iff]
  simp

theorem placement_eq_none_of_search_eq_none {g : GenState} {i : Instr}
    (h : search g.busy i (startSlot g.lat i) = none) : placement g i = none := by
  rw [placement_eq_filter, h, Option.filter_none]

/-- An operation other than MUL completes in any cell, so it is placed wherever Search finds one (R136). -/
theorem placement_eq_none_iff_of_ne_mul (g : GenState) {i : Instr} (h : i.opcode ≠ .mul) :
    placement g i = none ↔ search g.busy i (startSlot g.lat i) = none := by
  refine ⟨fun hplace => ?_, placement_eq_none_of_search_eq_none⟩
  cases hsearch : search g.busy i (startSlot g.lat i) with
  | none => rfl
  | some cell =>
    have hlate := (placement_eq_none_iff_of_search hsearch).mp hplace
    have hlat := latency_le_one_of_ne_mul h
    omega

/-- A MUL's cell is refused exactly when it is in one of the last two slots (R136). -/
theorem placement_mul_eq_none_iff {g : GenState} {i : Instr} {s : Fin 54} {l : Fin 2} (h : i.opcode = .mul)
    (hsearch : search g.busy i (startSlot g.lat i) = some (s, l)) : placement g i = none ↔ 52 ≤ s.val := by
  rw [placement_eq_none_iff_of_search hsearch, latency_of_mul h]
  omega

/-! ### Failure -/

/-- An attempt whose record is not placed counts a failure in the state after the compact byte (R138, R140). -/
theorem attempt_of_placement_eq_none (refill : Bytes32 → Bytes32) {g g1 : GenState} {b : Byte}
    (h1 : nextByte refill g = (b, g1)) (hp : placement g1 (decodeByte b) = none) :
    attempt refill g = placementFailure g1 := by
  obtain ⟨s, l, hsome, -⟩ | ⟨-, e⟩ := attempt_of_nextByte refill h1
  · rw [hp] at hsome; cases hsome
  · exact e

end Sys2Proof.Machine

namespace Sys2Proof.Proofs

open Sys2Proof.Machine

/-- Settles O44: placement filters Search's cell by the budget, which only a MUL in slot 52 or 53 overruns. -/
theorem placementCondition : Obligations.PlacementCondition :=
  ⟨fun _ _ _ _ => placement_eq_some_iff, fun g _ => placement_eq_none_iff_of_ne_mul g,
    fun _ _ _ _ => placement_mul_eq_none_iff⟩

/-- Settles O46: a failure raises `fail` in the state after the compact byte, and reading that byte keeps every field
but the buffer and the cursor. -/
theorem failureOnlyCounts : Obligations.FailureOnlyCounts := by
  intro refill g g1 b h1 hp
  obtain ⟨b', g', h1', hlat, hbusy, hfail, hcode⟩ := nextByte_keeps refill g
  obtain ⟨rfl, rfl⟩ := Prod.mk.inj (h1.symm.trans h1')
  rw [attempt_of_placement_eq_none refill h1 hp]
  exact ⟨congrArg (· + 1) hfail, hbusy, hlat, hcode, rfl, rfl⟩

end Sys2Proof.Proofs
end

section
/-! PROOFS. The family 42_executor.md: what an operative instruction writes (R175), and that nothing after a sequence's
first RET is read (R177). -/

namespace Sys2Proof

/-! ### The check of a raw sequence -/

/-- A record whose op is 6 is a RET, where it is accepted at all (R76, R78). -/
theorem isRet_of_decodeRecord {r : RawRecord} {i : Instr} (hr : r.op = 6) (h : decodeRecord r = .ok i) :
    i.isRet = true := by
  have hop : Opcode.ofNumber r.op = some .ret := by rw [hr]; rfl
  simp only [decodeRecord, hop] at h
  split_ifs at h
  cases h
  rfl

/-- The check reads no entry after a RET, so its verdict is the same whatever stands there (R39, R177). -/
theorem decodeRecords_append_ret {r : RawRecord} (hr : r.op = 6) (body tail tail' : List RawRecord) :
    decodeRecords (body ++ r :: tail) = decodeRecords (body ++ r :: tail') := by
  induction body with
  | nil =>
    cases h : decodeRecord r with
    | error e => simp only [List.nil_append, decodeRecords_cons_of_error h]
    | ok i => simp only [List.nil_append, decodeRecords_cons_of_ret h (isRet_of_decodeRecord hr h)]
  | cons q body ih => rw [List.cons_append, List.cons_append, decodeRecords, decodeRecords, ih]

end Sys2Proof

namespace Sys2Proof.Machine

/-! ### One instruction -/

/-- Retiring a result changes x[d] and the pc alone (R175). -/
theorem onlyWrites_retire (s : State) (d : Fin 4) (v : Word s.width) : OnlyWrites s (s.retire d v) d :=
  ⟨⟨_, _, rfl⟩, fun r hr => by rw [State.x_retire, if_neg hr]⟩

theorem varReg_le_three (d : Fin 4) : (varReg d).val ≤ 3 := Nat.le_of_lt_succ d.isLt

/-- A Running Executor's step is the meaning of the record it fetches (R172). -/
theorem step_of_fetch {s : State} {i : Instr} (hs : s.Executing) (hi : s.fetch = some i) : step s = exec i s := by
  obtain ⟨hlaunch, hagent, hstatus⟩ := hs
  simp only [step_of_launchable hlaunch, hagent, executorStep, hstatus, hi]

/-- After an operative record the Executor is Running still, one record further on in the same Program (R172). -/
theorem executing_of_exec {s t : State} {i : Instr} (hs : s.Executing) (hi : i.isRet = false)
    (h : exec i s = .next t) : t.Executing ∧ t.pc = s.pc + 1 ∧ t.program = s.program := by
  rw [exec_of_not_ret hi] at h
  cases h
  exact ⟨hs, rfl, rfl⟩

/-! ### The Program a run refers to -/

/-- `s` with another Program buffer and another reference to a Program. -/
def State.referTo (s : State) (prog : List Instr) (ref : ProgramRef) : State := { s with prog := prog, ref := ref }

/-- The record fetched is the first of what is left of the Program at the pc (R171). -/
theorem fetch_of_drop {s : State} {i : Instr} {rest : List Instr} (h : s.program.drop s.pc = i :: rest) :
    s.fetch = some i := by
  rw [State.fetch, ← List.head?_drop, h, List.head?_cons]

/-- No instruction reads the Program or the reference to it (R172). -/
theorem exec_referTo (i : Instr) {s t : State} (h : exec i s = .next t) (prog : List Instr) (ref : ProgramRef) :
    exec i (s.referTo prog ref) = .next (t.referTo prog ref) := by
  cases i <;> (cases h; rfl)

/-- Two machines that fetch the same record take the same step, each on its own Program. -/
theorem step_referTo {s t : State} {i : Instr} {rest rest' prog : List Instr} {ref : ProgramRef} (hs : s.Executing)
    (hp : s.program.drop s.pc = i :: rest) (hp' : (ref.select prog).drop s.pc = i :: rest') (h : step s = .next t) :
    step (s.referTo prog ref) = .next (t.referTo prog ref) := by
  rw [step_of_fetch hs (fetch_of_drop hp)] at h
  have hs' : (s.referTo prog ref).Executing := hs
  rw [step_of_fetch hs' (fetch_of_drop hp'), exec_referTo i h]

/-- A run that ends at the latest with the first RET depends on the Program only through the records from the pc to
that RET (R177). -/
theorem run_referTo {prog : List Instr} {ref : ProgramRef} {body tail tail' : List Instr} {i : Instr} {n : Nat} :
    ∀ {s t : State}, s.Executing → s.program.drop s.pc = body ++ i :: tail →
      (ref.select prog).drop s.pc = body ++ i :: tail' → (∀ j ∈ body, j.isRet = false) → n ≤ body.length + 1 →
      run n s = .next t → run n (s.referTo prog ref) = .next (t.referTo prog ref) := by
  induction n generalizing body with
  | zero => intro s t _ _ _ _ _ h; cases h; rfl
  | succ n ih =>
    intro s t hs hp hp' hbody hn h
    obtain ⟨u, hu, h⟩ := run_succ_next h
    cases body with
    | nil =>
      obtain rfl : n = 0 := by simpa using hn
      rw [run_succ_of_step (step_referTo hs hp hp' hu)]
      cases h
      rfl
    | cons j body =>
      rw [run_succ_of_step (step_referTo hs hp hp' hu)]
      obtain ⟨hj, hbody⟩ := List.forall_mem_cons.mp hbody
      have hexec : exec j s = .next u := by rw [← hu, step_of_fetch hs (fetch_of_drop hp)]
      obtain ⟨hu, hpc, hprogram⟩ := executing_of_exec hs hj hexec
      refine ih hu ?_ ?_ hbody (Nat.le_of_succ_le_succ hn) h
      · rw [hprogram, hpc, ← List.tail_drop, hp]; rfl
      · rw [hpc, ← List.tail_drop, hp']; rfl

/-! ### The start of a call -/

/-- Two sequences of at most 110 entries that the check answers alike launch alike (R235). -/
theorem launchProgram_congr {raw raw' : List RawRecord} (hl : raw.length ≤ 110) (hl' : raw'.length ≤ 110)
    (h : decodeRecords raw = decodeRecords raw') : launchProgram (some raw) = launchProgram (some raw') := by
  have hmax : ¬ Config.programMax < raw.length := Nat.not_lt.mpr hl
  have hmax' : ¬ Config.programMax < raw'.length := Nat.not_lt.mpr hl'
  simp only [launchProgram, if_neg hmax, if_neg hmax', h]

/-- An execute call starts from the Program it launches (R261). -/
theorem startCall_execute_congr {s : State} {raw raw' : Option (List RawRecord)}
    (h : launchProgram raw = launchProgram raw') (vars : Option (Vector (Word s.width) 4))
    (consts : Vector (Word s.width) 4) :
    startCall s (.execute raw vars consts) = startCall s (.execute raw' vars consts) := by
  simp only [startCall, h]

theorem hostStep_cons {s : State} {c : HostCall s.width} {rest : List (HostCall s.width)} (h : s.calls = c :: rest) :
    hostStep s = startCall { s with calls := rest } c := by
  simp only [hostStep, h]

theorem step_of_host {s : State} (ha : s.agent = .host) :
    step s = if !s.widthSupported then .refused .unsupportedWidth
      else if s.sharesBuffers then .refused .sharedBuffers
      else hostStep s := by
  simp only [step, cycle, ha]

/-- The pending calls have no part in the launch's two checks (R235): they matter through the call that starts. -/
theorem step_setCalls {s : State} {calls : List (HostCall s.width)} (ha : s.agent = .host)
    (h : hostStep { s with calls := calls } = hostStep s) : step { s with calls := calls } = step s := by
  rw [step_of_host ha, step_of_host (s := { s with calls := calls }) ha, h]
  rfl

end Sys2Proof.Machine

namespace Sys2Proof.Proofs

open Sys2Proof.Machine

/-- Settles O8: an operative instruction does nothing but retire its result to x[dst]. -/
theorem operativeWritesOneRegister : Obligations.OperativeWritesOneRegister := by
  intro i s t hi h
  rw [exec_of_not_ret hi] at h
  cases h
  have honly := onlyWrites_retire s i.dst (resultOf i s)
  exact ⟨honly, varReg_le_three i.dst, fun r hr => honly.2 r (ne_varReg_of_ge hr i.dst)⟩

/-- Settles O20: a run follows the records from the pc to the first RET, and a launch's check stops at that RET. -/
theorem recordsAfterRetIrrelevant : Obligations.RecordsAfterRetIrrelevant := by
  constructor
  · intro s t prog' ref' body tail tail' i n hs hpc hp hp' hbody _ hn h
    have hdrop : s.program.drop s.pc = body ++ i :: tail := by rw [hpc, List.drop_zero, hp]
    have hdrop' : (ref'.select prog').drop s.pc = body ++ i :: tail' := by rw [hpc, List.drop_zero]; exact hp'
    exact run_referTo hs hdrop hdrop' hbody hn h
  · intro s body tail tail' r vars consts rest ha hcalls hr hl hl'
    have hlaunch := launchProgram_congr hl' hl (decodeRecords_append_ret hr body tail' tail)
    apply step_setCalls ha
    rw [hostStep_cons hcalls, hostStep_cons rfl]
    exact startCall_execute_congr (s := { s with calls := rest }) hlaunch vars consts

end Sys2Proof.Proofs
end

section
/-! PROOFS. The family 43_arith.md: MUL (R191) and SUB (R193), whose results are reduced modulo 2^W. -/

namespace Sys2Proof

/-! ### The compact byte -/

/-- The record of a byte whose operation is known (R108). -/
theorem decodeByte_of_mapOp {b : Byte} {op : Opcode} (h : mapOp (rawField b) = op) :
    decodeByte b = Instr.ofFields op (dstField b) (fixCollision op (dstField b) (srcField b)) 0 := by
  rw [decodeByte, h]

/-- Raw 4 alone selects a SUB (R105). -/
theorem mapOp_eq_sub_iff (raw : Fin 8) : mapOp raw = .sub ↔ raw.val = 4 := by
  revert raw; decide

/-- The collision fix of an operation that has one, without the test of the operation (R106). -/
theorem fixCollision_eq_ite {op : Opcode} (hop : op = .sub ∨ op = .xor) (d : Fin 4) (r : Fin 8) :
    fixCollision op d r = if r.val = d.val then ⟨d.val + 4, by omega⟩ else r := by
  simp only [fixCollision, hop, true_and]

end Sys2Proof

namespace Sys2Proof.Machine

/-! ### Results as numbers -/

/-- MulResult is the product modulo 2^W (R191). -/
theorem toNat_mulResult {w : Nat} (a b : Word w) : (mulResult a b).toNat = a.toNat * b.toNat % 2 ^ w :=
  BitVec.toNat_mul a b

/-- SubResult is the difference of the unsigned values, as an integer, modulo 2^W (R193). -/
theorem toNat_subResult {w : Nat} (a b : Word w) :
    ((subResult a b).toNat : Int) = ((a.toNat : Int) - b.toNat) % 2 ^ w := by
  have hb : b.toNat ≤ 2 ^ w := b.isLt.le
  rw [subResult, BitVec.toNat_sub]
  push_cast [hb]
  rw [show (2 ^ w - b.toNat + a.toNat : Int) = a.toNat - b.toNat + 2 ^ w by ring, Int.add_emod_right]

/-! ### One instruction -/

/-- An operative instruction leaves its result in x[dst] and changes nothing else but the pc (R175). -/
theorem exec_writes_resultOf {i : Instr} (h : i.isRet = false) (s : State) :
    ∃ t, exec i s = .next t ∧ t.x (varReg i.dst) = (resultOf i s).toNat ∧ OnlyWrites s t i.dst :=
  ⟨_, exec_of_not_ret h s, by rw [State.x_retire, if_pos rfl], onlyWrites_retire s i.dst _⟩

end Sys2Proof.Machine

namespace Sys2Proof.Proofs

open Sys2Proof.Machine

/-- Settles O1: MUL retires MulResult, the product modulo 2^W; no collision fix touches a MUL's source. -/
theorem mulProductModWidth : Obligations.MulProductModWidth := by
  refine ⟨fun s d r c => ?_, fun b hb => ?_, fun _ _ => rfl, fun _ _ _ => ⟨rfl, rfl⟩⟩
  · obtain ⟨t, hexec, hx, honly⟩ := exec_writes_resultOf (i := .mul d r c) rfl s
    exact ⟨t, hexec, hx.trans (toNat_mulResult _ _), honly⟩
  · rw [decodeByte_of_mapOp ((mapOp_eq_mul_iff _).mpr hb), fixCollision_of_other (by decide) (by decide)]
    rfl

/-- Settles O3: SUB retires SubResult, the difference modulo 2^W; its decoded source is the collision fix. -/
theorem subDifferenceModWidth : Obligations.SubDifferenceModWidth := by
  refine ⟨fun s d r c => ?_, fun b hb => ?_, fun _ _ => rfl, fun _ _ _ => ⟨rfl, rfl⟩⟩
  · obtain ⟨t, hexec, hx, honly⟩ := exec_writes_resultOf (i := .sub d r c) rfl s
    exact ⟨t, hexec, (congrArg Nat.cast hx).trans (toNat_subResult _ _), honly⟩
  · rw [decodeByte_of_mapOp ((mapOp_eq_sub_iff _).mpr hb), fixCollision_eq_ite (.inl rfl)]
    rfl

end Sys2Proof.Proofs
end

section
/-! PROOFS. The family 44_bitwise_rotate.md: XOR (R212). -/

namespace Sys2Proof

/-- Raw 7 alone selects a XOR (R105). -/
theorem mapOp_eq_xor_iff (raw : Fin 8) : mapOp raw = .xor ↔ raw.val = 7 := by
  revert raw; decide

end Sys2Proof

namespace Sys2Proof.Machine

/-- XorResult is the bitwise exclusive or of the unsigned values (R212). -/
theorem toNat_xorResult {w : Nat} (a b : Word w) : (xorResult a b).toNat = a.toNat ^^^ b.toNat :=
  BitVec.toNat_xor a b

end Sys2Proof.Machine

namespace Sys2Proof.Proofs

open Sys2Proof.Machine

/-- Settles O6: XOR retires XorResult, the exclusive or of the values; its decoded source is the collision fix. -/
theorem xorBitwise : Obligations.XorBitwise := by
  refine ⟨fun s d r c => ?_, fun b hb => ?_, fun _ _ => rfl, fun _ _ _ => ⟨rfl, rfl⟩⟩
  · obtain ⟨t, hexec, hx, honly⟩ := exec_writes_resultOf (i := .xor d r c) rfl s
    exact ⟨t, hexec, hx.trans (toNat_xorResult _ _), honly⟩
  · rw [decodeByte_of_mapOp ((mapOp_eq_xor_iff _).mpr hb), fixCollision_eq_ite (.inr rfl)]
    rfl

end Sys2Proof.Proofs
end

section
/-! PROOFS. Records and their bytes: the canonical round trip (R76, R80), the compact round trip (R71, R75, R79), the
records a caller may hand over (R235), and words written out from the spec. -/

namespace Sys2Proof

/-! ### Canonical records -/

/-- An accepted record has exactly the fields that were handed over (R76, R235). -/
theorem raw_of_decodeRecord {r : RawRecord} {i : Instr} (h : decodeRecord r = .ok i) : i.raw = r := by
  obtain ⟨opNumber, dst, src, c⟩ := r
  unfold decodeRecord at h
  split at h
  · cases h
  · next op hop =>
    split_ifs at h with hd hs hc
    cases h
    have hnum : op.number = opNumber := Opcode.number_of_ofNumber hop
    have hconst : (BitVec.ofInt 8 c).toInt = c :=
      BitVec.toInt_ofInt_eq_self (by decide) hc.1 (Int.lt_add_one_of_le hc.2)
    simp [Instr.raw, hnum, hconst]

/-- Every record is accepted with its own fields (R76). -/
@[simp] theorem decodeRecord_raw (i : Instr) : decodeRecord i.raw = .ok i := by
  have hlow : -128 ≤ i.constant.toInt := BitVec.le_toInt i.constant
  have hhigh : i.constant.toInt ≤ 127 := Int.le_of_lt_add_one BitVec.toInt_lt
  simp [decodeRecord, Instr.raw, hlow, hhigh, Instr.ofFields_fields]

/-- A canonical record's fields lie in the ranges of R76. -/
theorem inRange_raw (i : Instr) : Machine.InRange i.raw :=
  ⟨Nat.le_of_lt_succ i.opcode.number_lt, Nat.le_of_lt_succ i.dst.isLt, Nat.le_of_lt_succ i.src.isLt,
    BitVec.le_toInt i.constant, Int.le_of_lt_add_one BitVec.toInt_lt⟩

/-- The numbers 0 to 6 all name an opcode (R77). -/
theorem exists_ofNumber_eq {n : Nat} (h : n ≤ 6) : ∃ op, Opcode.ofNumber n = some op := by
  interval_cases n <;> exact ⟨_, rfl⟩

theorem exists_decodeRecord_of_inRange {r : RawRecord} (h : Machine.InRange r) : ∃ i, decodeRecord r = .ok i := by
  obtain ⟨hop, hd, hs, hc⟩ := h
  obtain ⟨op, hop⟩ := exists_ofNumber_eq hop
  simp [decodeRecord, hop, Nat.lt_succ_of_le hd, Nat.lt_succ_of_le hs, hc]

/-- A record outside the ranges of R76 is refused (R235). -/
theorem exists_error_of_not_inRange {r : RawRecord} (h : ¬ Machine.InRange r) : ∃ e, decodeRecord r = .error e := by
  cases hr : decodeRecord r with
  | error e => exact ⟨e, rfl⟩
  | ok i => exact absurd (raw_of_decodeRecord hr ▸ inRange_raw i) h

/-! ### Canonical serialization -/

/-- The raw record that four serialized bytes stand for (R80). -/
def RawRecord.ofBytes (op dst src c : Byte) : RawRecord := ⟨op.toNat, dst.toNat, src.toNat, c.toInt⟩

theorem decodeSerial_cons (op dst src c : Byte) (rest : List Byte) :
    decodeSerial (op :: dst :: src :: c :: rest) =
      (decodeRecord (.ofBytes op dst src c)).map fun i => (i, rest) := by
  cases h : decodeRecord (.ofBytes op dst src c) <;>
    simp only [RawRecord.ofBytes] at h <;> simp only [decodeSerial, h] <;> rfl

/-- Four bytes are a record's serialization exactly when they stand for its fields (R80). -/
theorem encode_eq_iff {i : Instr} {op dst src c : Byte} :
    encode i = [op, dst, src, c] ↔ i.raw = .ofBytes op dst src c := by
  have hop : i.opcode.number < 256 := i.opcode.number_lt.trans (by decide)
  have hd : i.dst.val < 256 := i.dst.isLt.trans (by decide)
  have hs : i.src.val < 256 := i.src.isLt.trans (by decide)
  simp [encode, Instr.raw, RawRecord.ofBytes, BitVec.toInt_inj, ← BitVec.toNat_inj, Nat.mod_eq_of_lt hop,
    Nat.mod_eq_of_lt hd, Nat.mod_eq_of_lt hs]

/-- The four bytes of a record's serialization, and what they stand for (R80). -/
theorem exists_encode_eq (i : Instr) :
    ∃ op dst src c, encode i = [op, dst, src, c] ∧ RawRecord.ofBytes op dst src c = i.raw :=
  ⟨_, _, _, _, rfl, (encode_eq_iff.mp rfl).symm⟩

@[simp] theorem encode_length (i : Instr) : (encode i).length = 4 := rfl

/-- Decoding a record's serialization gives the record and the bytes after it. -/
theorem decodeSerial_encode_append (i : Instr) (rest : List Byte) :
    decodeSerial (encode i ++ rest) = .ok (i, rest) := by
  obtain ⟨op, dst, src, c, hbytes, hraw⟩ := exists_encode_eq i
  rw [hbytes]
  exact (decodeSerial_cons op dst src c rest).trans (by rw [hraw, decodeRecord_raw]; rfl)

/-- The bytes that decode to a record are that record's serialization. -/
theorem eq_encode_append_of_decodeSerial {bytes rest : List Byte} {i : Instr}
    (h : decodeSerial bytes = .ok (i, rest)) : bytes = encode i ++ rest := by
  match bytes with
  | [] | [_] | [_, _] | [_, _, _] => cases h
  | op :: dst :: src :: c :: rest' =>
    rw [decodeSerial_cons] at h
    cases hr : decodeRecord (.ofBytes op dst src c) with
    | error e => rw [hr] at h; cases h
    | ok j =>
      rw [hr] at h
      cases h
      rw [encode_eq_iff.mpr (raw_of_decodeRecord hr)]
      rfl

/-! ### Serialized Programs -/

theorem decodeProgram_encode_append (i : Instr) (rest : List Byte) :
    decodeProgram (encode i ++ rest) = (decodeProgram rest).map (i :: ·) := by
  obtain ⟨op, dst, src, c, hbytes, hraw⟩ := exists_encode_eq i
  have hdecode : decodeRecord ⟨op.toNat, dst.toNat, src.toNat, c.toInt⟩ = .ok i :=
    (congrArg decodeRecord hraw).trans (decodeRecord_raw i)
  rw [hbytes]
  cases h : decodeProgram rest <;> simp only [List.cons_append, List.nil_append, decodeProgram, hdecode, h] <;> rfl

@[simp] theorem encodeProgram_cons (i : Instr) (p : List Instr) :
    encodeProgram (i :: p) = encode i ++ encodeProgram p :=
  List.flatMap_cons

theorem encodeProgram_length (p : List Instr) : (encodeProgram p).length = 4 * p.length := by
  induction p with
  | nil => rfl
  | cons i p ih => simp [ih]; omega

theorem decodeProgram_encodeProgram (p : List Instr) : decodeProgram (encodeProgram p) = .ok p := by
  induction p with
  | nil => rfl
  | cons i p ih => rw [encodeProgram_cons, decodeProgram_encode_append, ih]; rfl

theorem encodeProgram_injective : Function.Injective encodeProgram := by
  intro p q h
  have hpq := decodeProgram_encodeProgram p
  rw [h, decodeProgram_encodeProgram] at hpq
  cases hpq
  rfl

/-! ### Compact bytes -/

/-- The compact byte of three fields: raw + 8·dst + 32·src (R71). -/
def compactByte (raw dst src : Nat) : Byte := BitVec.ofNat 8 (raw + 8 * dst + 32 * src)

theorem encodeCompact_eq (i : Instr) : encodeCompact i = i.opcode.rawNumber.map fun raw =>
    compactByte raw i.dst.val i.src.val :: if i.takesConstant then [i.constant] else [] := by
  unfold encodeCompact
  cases h : i.opcode.rawNumber <;> rfl

/-- The fields of a compact byte are those it was built from (R71, R104). -/
theorem fields_compactByte (raw : Fin 8) (d : Fin 4) (s : Fin 8) :
    rawField (compactByte raw.val d.val s.val) = raw ∧ dstField (compactByte raw.val d.val s.val) = d ∧
      srcField (compactByte raw.val d.val s.val) = s := by
  have hbyte : (compactByte raw.val d.val s.val).toNat = raw.val + 8 * d.val + 32 * s.val := by
    rw [compactByte, BitVec.toNat_ofNat, Nat.mod_eq_of_lt (by omega)]
  simp only [Fin.ext_iff, rawField_val, dstField_val, srcField_val, hbyte]
  omega

/-- The raw opcode a compact encoding uses selects the operation (R73, R105). -/
theorem exists_raw_of_rawNumber {op : Opcode} (h : op ≠ .ret) :
    ∃ raw : Fin 8, op.rawNumber = some raw.val ∧ mapOp raw = op := by
  cases op with
  | mul => exact ⟨0, rfl, rfl⟩
  | add => exact ⟨3, rfl, rfl⟩
  | sub => exact ⟨4, rfl, rfl⟩
  | ror => exact ⟨5, rfl, rfl⟩
  | rol => exact ⟨6, rfl, rfl⟩
  | xor => exact ⟨7, rfl, rfl⟩
  | ret => exact absurd rfl h

/-- The collision fix leaves the source of a well-formed record (R40, R106). -/
theorem fixCollision_of_wellFormed {i : Instr} (h : i.wellFormed = true) :
    fixCollision i.opcode i.dst i.src = i.src := by
  cases i with
  | sub d s c | xor d s c =>
    have hne : s.val ≠ d.val := by simp_all [Instr.wellFormed]
    exact fixCollision_of_distinct _ hne
  | mul | add | ror | rol | ret => exact fixCollision_of_other (by simp [Instr.opcode]) (by simp [Instr.opcode]) _ _

/-- A well-formed record has C only where an ADD stands (R40). -/
theorem constant_of_wellFormed {i : Instr} (h : i.wellFormed = true) (ha : i.takesConstant = false) :
    i.constant = 0 := by
  cases i <;> simp_all [Instr.wellFormed, Instr.constant, Instr.takesConstant]

/-- The compact byte of a well-formed operative record selects it, but for its C (R108). -/
theorem decodeByte_compactByte {i : Instr} (h : i.wellFormed = true) {raw : Fin 8} (hraw : mapOp raw = i.opcode) :
    decodeByte (compactByte raw.val i.dst.val i.src.val) = i.withConstant 0 := by
  obtain ⟨hr, hd, hs⟩ := fields_compactByte raw i.dst i.src
  rw [decodeByte, hr, hd, hs, hraw, fixCollision_of_wellFormed h]
  rfl

@[simp] theorem Instr.withConstant_withConstant (i : Instr) (b c : Byte) :
    (i.withConstant b).withConstant c = i.withConstant c := by
  simp [withConstant]

@[simp] theorem Instr.withConstant_constant (i : Instr) : i.withConstant i.constant = i := i.ofFields_fields

/-- A well-formed operative record's compact bytes, and what they decode to (R71, R75). -/
theorem exists_encodeCompact {i : Instr} (rest : List Byte) (hwf : i.wellFormed = true) (hret : i.isRet = false) :
    ∃ bytes, encodeCompact i = some bytes ∧ bytes.length = (if i.opcode = .add then 2 else 1) ∧
      decodeStream (bytes ++ rest) = .ok (i, rest) := by
  have hop : i.opcode ≠ .ret := by simpa [Instr.isRet_eq] using hret
  obtain ⟨raw, hnum, hraw⟩ := exists_raw_of_rawNumber hop
  have hbyte := decodeByte_compactByte hwf hraw
  refine ⟨_, by rw [encodeCompact_eq, hnum]; rfl, ?_⟩
  cases ha : i.takesConstant with
  | true =>
    have hadd : i.opcode = .add := by simpa [Instr.takesConstant_eq] using ha
    refine ⟨by simp [hadd], ?_⟩
    have htakes : (decodeByte (compactByte raw.val i.dst.val i.src.val)).takesConstant = true := by simp [hbyte, ha]
    rw [if_pos rfl, List.cons_append, List.cons_append, List.nil_append, decodeStream_of_takesConstant htakes, hbyte]
    simp
  | false =>
    have hadd : i.opcode ≠ .add := by simpa [Instr.takesConstant_eq] using ha
    refine ⟨by simp [hadd], ?_⟩
    have htakes : (decodeByte (compactByte raw.val i.dst.val i.src.val)).takesConstant = false := by simp [hbyte, ha]
    have hzero : i.withConstant 0 = i := by rw [← constant_of_wellFormed hwf ha, Instr.withConstant_constant]
    rw [if_neg (by decide), List.cons_append, List.nil_append, decodeStream_of_not_takesConstant htakes, hbyte, hzero]

theorem encodeCompact_of_isRet {i : Instr} (h : i.isRet = true) : encodeCompact i = none := by
  have hop : i.opcode = .ret := by simpa [Instr.isRet_eq] using h
  rw [encodeCompact_eq, hop]
  rfl

end Sys2Proof

namespace Sys2Proof.Proofs

open Sys2Proof.Machine

/-- Settles O32: a record is accepted exactly with its own fields, which four bytes hold without loss. -/
theorem canonicalRoundTrip : Obligations.CanonicalRoundTrip :=
  ⟨decodeSerial_encode_append, fun _ _ _ => eq_encode_append_of_decodeSerial⟩

/-- Settles O34: the three fields of the byte are read back, and the collision fix leaves a well-formed record. -/
theorem compactRoundTrip : Obligations.CompactRoundTrip :=
  ⟨fun _ rest => exists_encodeCompact rest, fun _ => encodeCompact_of_isRet⟩

/-- Settles O33: decoding is a left inverse of the serialization, by induction on the records. -/
theorem programSerializationFaithful : Obligations.ProgramSerializationFaithful :=
  ⟨fun p => ⟨encodeProgram_length p, decodeProgram_encodeProgram p⟩, fun _ _ => encodeProgram_injective.eq_iff⟩

/-- Settles O35: the check accepts what is in range, and an accepted record has the fields handed over. -/
theorem recordsAcceptedExactlyInRange : Obligations.RecordsAcceptedExactlyInRange := by
  refine ⟨fun r h => ?_, fun _ => exists_error_of_not_inRange, decodeRecord_raw⟩
  obtain ⟨i, hi⟩ := exists_decodeRecord_of_inRange h
  exact ⟨i, hi, raw_of_decodeRecord hi⟩

/-- Settles O27: each field's value by the lemma about it. -/
theorem compactFieldsByValue : Obligations.CompactFieldsByValue :=
  fun b => ⟨rawField_val b, dstField_val b, srcField_val b⟩

/-- Settles O31: the compact words by evaluation, RET's by the round trip of its serialization. -/
theorem specWordsDecode : Obligations.SpecWordsDecode := by
  refine ⟨?_, ?_, ?_, ?_, ?_, ?_, ?_, ?_, ?_, ?_, ?_, decodeSerial_encode_append Instr.retRecord []⟩ <;> decide

end Sys2Proof.Proofs
end

section
/-! PROOFS. The scheduler: what Search finds (R133, R135), readiness (R131, R134), latencies (R132), and what a
placement changes in the busy table, the counters and the Program (R137). -/

namespace Sys2Proof

/-- The first answer of `f` along a list in the order `r`, by its place: what stands before it has no answer. -/
theorem findSome?_eq_some_iff_of_pairwise {α β : Type} {r : α → α → Prop} [Std.Asymm r] {f : α → Option β} {b : β}
    {xs : List α} (hxs : xs.Pairwise r) :
    xs.findSome? f = some b ↔ ∃ a ∈ xs, f a = some b ∧ ∀ a' ∈ xs, r a' a → f a' = none := by
  induction xs with
  | nil => simp
  | cons x xs ih =>
    obtain ⟨hx, hxs⟩ := List.pairwise_cons.mp hxs
    cases hfx : f x with
    | none =>
      rw [List.findSome?_cons, hfx, ih hxs]
      simp [hfx]
    | some y =>
      rw [List.findSome?_cons, hfx]
      constructor
      · intro h
        cases h
        have hfirst : ∀ a' ∈ x :: xs, ¬ r a' x := by
          intro a' ha' hr
          obtain rfl | ha' := List.mem_cons.mp ha'
          · exact Std.Asymm.asymm _ _ hr hr
          · exact Std.Asymm.asymm _ _ hr (hx a' ha')
        exact ⟨x, List.mem_cons_self, hfx, fun a' ha' hr => absurd hr (hfirst a' ha')⟩
      · rintro ⟨a, ha, hfa, hbefore⟩
        obtain rfl | ha := List.mem_cons.mp ha
        · rw [← hfx, hfa]
        · have hnone := hbefore x List.mem_cons_self (hx a ha)
          rw [hfx] at hnone
          cases hnone

/-- The first element of a list in the order `r` that `p` holds of: `p` fails on what stands before it. -/
theorem find?_eq_some_iff_of_pairwise {α : Type} {r : α → α → Prop} [Std.Asymm r] {p : α → Bool} {a : α}
    {xs : List α} (hxs : xs.Pairwise r) :
    xs.find? p = some a ↔ a ∈ xs ∧ p a = true ∧ ∀ a' ∈ xs, r a' a → p a' = false := by
  rw [List.find?_eq_findSome?_guard, findSome?_eq_some_iff_of_pairwise hxs]
  simp only [Option.guard_eq_some_iff, Option.guard_eq_none_iff]
  constructor
  · rintro ⟨x, hx, ⟨rfl, hp⟩, hbefore⟩
    exact ⟨hx, hp, hbefore⟩
  · rintro ⟨ha, hp, hbefore⟩
    exact ⟨a, ha, ⟨rfl, hp⟩, hbefore⟩

/-- Replacing one number of a list changes the sum by their difference. -/
theorem sum_set_add_getElem {xs : List Nat} {n : Nat} (h : n < xs.length) (a : Nat) :
    (xs.set n a).sum + xs[n] = xs.sum + a := by
  have hsplit := List.sum_take_add_sum_drop xs n
  rw [List.drop_eq_getElem_cons h, List.sum_cons] at hsplit
  rw [List.sum_set, if_pos h]
  omega

end Sys2Proof

namespace Sys2Proof.Machine

/-! ### Latencies and lanes -/

/-- Every operative operation but MUL takes one slot (R132). -/
theorem latency_of_ne_mul {i : Instr} (hmul : i.opcode ≠ .mul) (hret : i.opcode ≠ .ret) : latency i = 1 := by
  cases i with
  | mul => exact absurd rfl hmul
  | ret => exact absurd rfl hret
  | _ => rfl

theorem mem_lanes_iff {i : Instr} {l : Fin 2} : l ∈ lanes i ↔ l.val < laneCount i := by
  simp [lanes]

/-- Search tries the lanes from the highest down (R135). -/
theorem lanes_pairwise (i : Instr) : (lanes i).Pairwise (· > ·) :=
  List.Pairwise.filter _ (by decide)

/-- MUL may use lane 0, the other operative operations both (R133). -/
theorem mem_lanes_iff_of_operative {i : Instr} (h : i.isRet = false) (l : Fin 2) :
    l ∈ lanes i ↔ i.opcode ≠ .mul ∨ l = 0 := by
  rw [mem_lanes_iff]
  cases i with
  | mul => simp [laneCount, Instr.opcode]
  | ret => cases h
  | _ => simp [laneCount, Instr.opcode, Nat.le_of_lt_succ l.isLt]

theorem zero_mem_lanes {i : Instr} (h : i.isRet = false) : 0 ∈ lanes i :=
  (mem_lanes_iff_of_operative h 0).mpr (.inr rfl)

/-- RET has no lane (R132). -/
theorem lanes_of_isRet {i : Instr} (h : i.isRet = true) : lanes i = [] := by
  cases i with
  | ret => rfl
  | _ => cases h

/-! ### Search -/

section Search

variable {busy : Vector (Vector Bool 2) 54} {i : Instr} {s0 : Nat} {s : Fin 54} {l : Fin 2}

/-- The lane of a slot is the highest free one among those the operation may use (R133, R135). -/
theorem freeLane_eq_some_iff : freeLane busy i s = some l ↔
    l ∈ lanes i ∧ busy[s][l] = false ∧ ∀ l' ∈ lanes i, l < l' → busy[s][l'] = true := by
  simp [freeLane, find?_eq_some_iff_of_pairwise (lanes_pairwise i)]

theorem freeLane_eq_none_iff : freeLane busy i s = none ↔ ∀ l ∈ lanes i, busy[s][l] = true := by
  simp [freeLane]

/-- What Search sees at one slot: nothing before s0, and the slot's lane from there on (R135). -/
def laneFrom (busy : Vector (Vector Bool 2) 54) (i : Instr) (s0 : Nat) (s : Fin 54) : Option (Fin 54 × Fin 2) :=
  if s0 ≤ s.val then (freeLane busy i s).map fun l => (s, l) else none

theorem search_eq_findSome? : search busy i s0 = (List.finRange 54).findSome? (laneFrom busy i s0) := rfl

theorem laneFrom_eq_some_iff {a : Fin 54} :
    laneFrom busy i s0 a = some (s, l) ↔ a = s ∧ s0 ≤ s.val ∧ freeLane busy i s = some l := by
  unfold laneFrom
  split
  · next h =>
    simp only [Option.map_eq_some_iff, Prod.mk.injEq]
    constructor
    · rintro ⟨l', hl', rfl, rfl⟩
      exact ⟨rfl, h, hl'⟩
    · rintro ⟨rfl, -, hl⟩
      exact ⟨l, hl, rfl, rfl⟩
  · next h =>
    constructor
    · intro e; cases e
    · rintro ⟨rfl, hs, -⟩; exact absurd hs h

theorem laneFrom_eq_none_iff : laneFrom busy i s0 s = none ↔ (s0 ≤ s.val → ∀ l ∈ lanes i, busy[s][l] = true) := by
  rw [← freeLane_eq_none_iff]
  unfold laneFrom
  split <;> simp [*]

/-- Search's cell is the earliest, and in its slot the highest, free one from s0 on (R135). -/
theorem search_eq_some_iff : search busy i s0 = some (s, l) ↔
    s0 ≤ s.val ∧ l ∈ lanes i ∧ busy[s][l] = false ∧ (∀ l' ∈ lanes i, l < l' → busy[s][l'] = true) ∧
      ∀ s' : Fin 54, s' < s → s0 ≤ s'.val → ∀ l' ∈ lanes i, busy[s'][l'] = true := by
  rw [search_eq_findSome?, findSome?_eq_some_iff_of_pairwise (List.pairwise_lt_finRange 54)]
  simp only [laneFrom_eq_some_iff, laneFrom_eq_none_iff, freeLane_eq_some_iff, List.mem_finRange, true_and,
    true_implies]
  constructor
  · rintro ⟨a, ⟨rfl, hs, hl, hfree, htop⟩, hbefore⟩
    exact ⟨hs, hl, hfree, htop, hbefore⟩
  · rintro ⟨hs, hl, hfree, htop, hbefore⟩
    exact ⟨s, ⟨rfl, hs, hl, hfree, htop⟩, hbefore⟩

/-- Search finds nothing exactly where every cell it may use is busy (R135). -/
theorem search_eq_none_iff : search busy i s0 = none ↔ ∀ s : Fin 54, s0 ≤ s.val → ∀ l ∈ lanes i, busy[s][l] = true := by
  simp [search_eq_findSome?, laneFrom_eq_none_iff]

end Search

/-- RET is never placed (R132, log 22). -/
theorem placement_of_isRet (g : GenState) {i : Instr} (h : i.isRet = true) : placement g i = none :=
  placement_eq_none_of_search_eq_none (search_eq_none_iff.mpr (by simp [lanes_of_isRet h]))

/-! ### Readiness -/

theorem readiness_of_variable (lat : Vector Nat 4) {r : Fin 8} (h : r.val < 4) : readiness lat r = lat[r.val] :=
  dif_pos h

theorem readiness_of_constant (lat : Vector Nat 4) {r : Fin 8} (h : 4 ≤ r.val) : readiness lat r = 0 :=
  dif_neg (Nat.not_lt.mpr h)

theorem readiness_varReg (lat : Vector Nat 4) (d : Fin 4) : readiness lat (varReg d) = lat[d] :=
  readiness_of_variable lat d.isLt

theorem readiness_le {lat : Vector Nat 4} (h : ∀ r : Fin 4, lat[r] ≤ 54) (r : Fin 8) : readiness lat r ≤ 54 := by
  unfold readiness
  split
  · next hr => exact h ⟨r.val, hr⟩
  · exact Nat.zero_le 54

theorem lat_dst_le_startSlot (lat : Vector Nat 4) (i : Instr) : lat[i.dst] ≤ startSlot lat i := Nat.le_max_left _ _

theorem readiness_src_le_startSlot (lat : Vector Nat 4) (i : Instr) : readiness lat i.src ≤ startSlot lat i :=
  Nat.le_max_right _ _

/-- With an operand that is not ready within the table Search has no slot to look at (R135, R147). -/
theorem placement_eq_none_of_startSlot {g : GenState} {i : Instr} (h : 54 ≤ startSlot g.lat i) :
    placement g i = none :=
  placement_eq_none_of_search_eq_none (search_eq_none_iff.mpr fun s hs => by omega)

/-! ### A placed instruction's cell -/

section Placed

variable {g : GenState} {i : Instr} {s : Fin 54} {l : Fin 2}

/-- Everything about the cell of a placed instruction (R133 to R136). -/
theorem placement_spec (h : placement g i = some (s, l)) :
    g.lat[i.dst] ≤ s.val ∧ l ∈ lanes i ∧ g.busy[s][l] = false ∧ s.val + latency i ≤ 54 ∧ i.isRet = false := by
  obtain ⟨hsearch, hle⟩ := placement_some h
  obtain ⟨hs, hl, hfree⟩ := search_some hsearch
  refine ⟨(lat_dst_le_startSlot _ _).trans hs, hl, hfree, hle, ?_⟩
  by_contra hret
  rw [placement_of_isRet g (Bool.eq_true_of_not_eq_false hret)] at h
  cases h

/-- A placement raises its destination's counter (R137, R147). -/
theorem lat_dst_lt_of_placement (h : placement g i = some (s, l)) : g.lat[i.dst] < s.val + latency i := by
  obtain ⟨hlat, -, -, -, hret⟩ := placement_spec h
  exact hlat.trans_lt (Nat.lt_add_of_pos_right (latency_pos hret))

/-- With nothing ready late and every cell free, any operative instruction is placed (R146). -/
theorem exists_placement_of_empty (hi : i.isRet = false) (hlat : startSlot g.lat i = 0)
    (hbusy : ∀ (s : Fin 54) (l : Fin 2), g.busy[s][l] = false) : ∃ s l, placement g i = some (s, l) := by
  cases hsearch : search g.busy i (startSlot g.lat i) with
  | none =>
    have hall := search_eq_none_iff.mp hsearch 0 (by omega) 0 (zero_mem_lanes hi)
    rw [hbusy] at hall
    cases hall
  | some cell =>
    obtain ⟨s, l⟩ := cell
    obtain ⟨-, -, -, -, hbefore⟩ := search_eq_some_iff.mp hsearch
    have hs : s = 0 := by
      by_contra hs
      have hall := hbefore 0 (Fin.pos_of_ne_zero hs) (by omega) 0 (zero_mem_lanes hi)
      rw [hbusy] at hall
      cases hall
    have hle := latency_le i
    exact ⟨s, l, placement_eq_some_iff.mpr ⟨hsearch, by simp [hs]; omega⟩⟩

end Placed

/-! ### What a placement changes -/

/-- A free cell that is marked counts one more (R142). -/
theorem busyCount_markBusy {busy : Vector (Vector Bool 2) 54} {s : Fin 54} {l : Fin 2} (h : busy[s][l] = false) :
    busyCount (markBusy busy s l) = busyCount busy + 1 := by
  have hlane : (busy[s].set l.val true l.isLt).count true = busy[s].count true + 1 := by
    have hfree : busy[s][l.val] = false := h
    rw [Vector.count_set, hfree]
    simp
  have hsum := sum_set_add_getElem (xs := busy.toList.map fun lanes => lanes.count true) (n := s.val) (by simp)
    ((busy[s].set l.val true l.isLt).count true)
  have hslot : (busy.toList.map fun lanes => lanes.count true)[s.val]'(by simp) = busy[s].count true := by simp
  simp only [busyCount, markBusy, Vector.toList_set, List.map_set, Vector.count_toList]
  omega

/-- The constant of a placed record (R107, R137). -/
theorem fetchConstant_fst (refill : Bytes32 → Bytes32) (i : Instr) (g : GenState) :
    (fetchConstant refill i g).1 = if i.opcode = .add then (nextByte refill g).1 else 0 := by
  rw [fetchConstant, Instr.takesConstant_eq]
  by_cases h : i.opcode = .add <;> simp [h]

/-- The counters after one is set (R137). -/
theorem lat_set_get (lat : Vector Nat 4) (d r : Fin 4) (n : Nat) :
    (lat.set d.val n d.isLt)[r] = if r = d then n else lat[r] := by
  simp only [Fin.getElem_fin, Vector.getElem_set, Fin.val_inj, eq_comm]

/-- Placement looks at the counters and the busy table alone, so reading a byte leaves it as it is. -/
@[simp] theorem placement_nextByte (refill : Bytes32 → Bytes32) (g : GenState) (i : Instr) :
    placement (nextByte refill g).2 i = placement g i := by
  simp [placement_eq_filter]

/-- A decode attempt's effect on all but the byte source (R137, R138), where it decodes `i`: `g` before it, `g'` after
it. -/
inductive AttemptEffect (refill : Bytes32 → Bytes32) (i : Instr) (g g' : GenState) : Prop
  /-- the record is placed in the cell (s, l), with the constant c -/
  | placed (s : Fin 54) (l : Fin 2) (c : Byte) (hcell : placement g i = some (s, l))
      (hconst : c = if i.opcode = .add then (nextByte refill (nextByte refill g).2).1 else 0)
      (hbusy : g'.busy = markBusy g.busy s l) (hlat : g'.lat = g.lat.set i.dst.val (s.val + latency i))
      (hcode : g'.code = g.code ++ [i.withConstant c]) (hfail : g'.fail = 0)
  /-- a failure is counted -/
  | failed (hcell : placement g i = none) (hbusy : g'.busy = g.busy) (hlat : g'.lat = g.lat) (hcode : g'.code = g.code)
      (hfail : g'.fail = g.fail + 1)

theorem attempt_effect (refill : Bytes32 → Bytes32) (g : GenState) :
    AttemptEffect refill (decodeByte (nextByte refill g).1) g (attempt refill g) := by
  obtain ⟨s, l, hcell, e⟩ | ⟨hcell, e⟩ := attempt_cases refill g
  · rw [placement_nextByte] at hcell
    rw [e]
    exact .placed s l _ hcell (fetchConstant_fst refill _ _) (by simp) (by simp) (by simp) (by simp)
  · rw [placement_nextByte] at hcell
    rw [e]
    exact .failed hcell (nextByte_busy refill g) (nextByte_lat refill g) (nextByte_code refill g)
      (congrArg (· + 1) (nextByte_fail refill g))

/-! ### Attempts -/

/-- No counter falls in an attempt (R147). -/
theorem lat_le_attempt (refill : Bytes32 → Bytes32) (g : GenState) (r : Fin 4) :
    g.lat[r] ≤ (attempt refill g).lat[r] := by
  cases attempt_effect refill g with
  | placed s l c hcell hconst hbusy hlat =>
    rw [hlat, lat_set_get]
    split
    · next hr => rw [hr]; exact (lat_dst_lt_of_placement hcell).le
    · exact Nat.le_refl _
  | failed hcell hbusy hlat => rw [hlat]

/-- No cell is freed in an attempt (R31). -/
theorem busy_attempt (refill : Bytes32 → Bytes32) (g : GenState) {s : Fin 54} {l : Fin 2} (h : g.busy[s][l] = true) :
    (attempt refill g).busy[s][l] = true := by
  cases attempt_effect refill g with
  | placed s' l' c hcell hconst hbusy =>
    rw [hbusy, markBusy_get]
    split
    · rfl
    · exact h
  | failed hcell hbusy => rw [hbusy, h]

/-- One cell and one record together, or neither (R142). -/
theorem code_busyCount_attempt (refill : Bytes32 → Bytes32) (g : GenState) :
    (attempt refill g).code.length = g.code.length + 1 ∧
        busyCount (attempt refill g).busy = busyCount g.busy + 1 ∨
      (attempt refill g).code = g.code ∧ (attempt refill g).busy = g.busy := by
  cases attempt_effect refill g with
  | placed s l c hcell hconst hbusy hlat hcode =>
    obtain ⟨-, -, hfree, -, -⟩ := placement_spec hcell
    exact .inl ⟨by simp [hcode], by rw [hbusy, busyCount_markBusy hfree]⟩
  | failed hcell hbusy hlat hcode => exact .inr ⟨hcode, hbusy⟩

/-- The first attempt of a call places its record: every counter is 0 and every cell free (R146). -/
theorem attempt_start (refill : Bytes32 → Bytes32) (context : BitVec 64) :
    (attempt refill (GenState.start context)).code.length = 1 ∧
      (attempt refill (GenState.start context)).fail = 0 := by
  cases attempt_effect refill (GenState.start context) with
  | placed s l c hcell hconst hbusy hlat hcode hfail => exact ⟨by rw [hcode]; rfl, hfail⟩
  | failed hcell =>
    have hlat : ∀ i, startSlot (GenState.start context).lat i = 0 := by
      simp [startSlot, readiness, GenState.start, GenState.blank]
    obtain ⟨s, l, hsome⟩ := exists_placement_of_empty (decodeByte_isRet _) (hlat _)
      (by simp [GenState.start, GenState.blank])
    rw [hsome] at hcell
    cases hcell

end Sys2Proof.Machine

namespace Sys2Proof.Proofs

open Sys2Proof.Machine

/-- Settles O41: Search is the first answer along the slots in order, and a slot's the first along its lanes. -/
theorem searchFindsEarliest : Obligations.SearchFindsEarliest :=
  ⟨fun _ _ _ _ _ => search_eq_some_iff, fun _ _ _ => search_eq_none_iff, fun _ l h => mem_lanes_iff_of_operative h l⟩

/-- Settles O45: the attempt's effect where its record is placed. -/
theorem placementUpdates : Obligations.PlacementUpdates := by
  intro refill g g1 b s l h1 hp
  obtain ⟨rfl, rfl⟩ := Prod.ext_iff.mp h1
  rw [placement_nextByte] at hp
  cases attempt_effect refill g with
  | placed s' l' c hcell hconst hbusy hlat hcode hfail =>
    rw [hp] at hcell
    cases hcell
    refine ⟨fun s' l' => ?_, fun r => ?_, ?_, hfail⟩
    · rw [hbusy, markBusy_get]
      simp only [eq_comm]
    · rw [hlat, lat_set_get]
    · rw [hcode, hconst]
  | failed hcell =>
    rw [hp] at hcell
    cases hcell

/-- Settles O52: nothing is ready late and every cell is free at the start of a call. -/
theorem firstAttemptPlaces : Obligations.FirstAttemptPlaces := attempt_start

/-- Settles O53: a start slot of 54 leaves Search no slot, and a placed instruction completes after its start slot. -/
theorem completedRegisterBlocks : Obligations.CompletedRegisterBlocks := by
  refine ⟨fun g i h => placement_eq_none_of_startSlot ?_, lat_le_attempt, fun refill g g1 b h1 hp => ?_⟩
  · obtain hdst | ⟨hvar, hsrc⟩ := h
    · exact hdst ▸ lat_dst_le_startSlot g.lat i
    · rw [← hsrc, ← readiness_of_variable g.lat hvar]
      exact readiness_src_le_startSlot g.lat i
  · obtain ⟨rfl, rfl⟩ := Prod.ext_iff.mp h1
    rw [placement_nextByte] at hp
    cases attempt_effect refill g with
    | placed s l c hcell hconst hbusy hlat =>
      rw [hlat, lat_set_get, if_pos rfl]
      exact lat_dst_lt_of_placement hcell
    | failed hcell => exact absurd hcell hp

/-- Settles O54: the two effects of an attempt, the cell of a placement having been free. -/
theorem busyCellsOnePerPlacement : Obligations.BusyCellsOnePerPlacement :=
  fun refill g => ⟨fun _ _ => busy_attempt refill g, code_busyCount_attempt refill g⟩

/-- Settles O42: by the operation; RET has no lane for Search to find. -/
theorem simulatedLatencies : Obligations.SimulatedLatencies :=
  ⟨fun _ => latency_of_mul, fun _ => latency_of_ne_mul, placement_of_isRet⟩

/-- Settles O43: by whether the source is a variable or a constant register. -/
theorem startSlotIsLaterReadiness : Obligations.StartSlotIsLaterReadiness := by
  intro lat i
  refine ⟨fun h => ?_, fun h => ?_, fun h => ?_, fun h => ?_⟩
  · rw [startSlot, readiness_of_variable lat h]
  · rw [startSlot, readiness_of_constant lat h, Nat.max_zero]
  · rw [startSlot, h, readiness_varReg, Nat.max_self]
  · exact Nat.max_le.mpr ⟨h i.dst, readiness_le h i.src⟩

end Sys2Proof.Proofs
end

section
/-! PROOFS. The byte source: the seed (R52, R102), NextByte (R101), the stream it hands out (R103), and the constant
byte (R107). -/

namespace Sys2Proof.Machine

/-! ### Constants and the seed -/

/-- The two's-complement reading of a byte (R107, D7). -/
theorem toInt_byte (c : Byte) : c.toInt = if c.toNat < 128 then (c.toNat : Int) else c.toNat - 256 := by
  rw [BitVec.toInt_eq_toNat_cond]
  exact if_congr (by omega) rfl rfl

/-- ADD's third operand is C as a signed number, modulo 2^W (R107, R192). -/
theorem toNat_constantValue (w : Nat) (c : Byte) : ((constantValue w c).toNat : Int) = c.toInt % 2 ^ w := by
  have hpos : (0 : Int) ≤ c.toInt % 2 ^ w := Int.emod_nonneg _ (by positivity)
  rw [constantValue, BitVec.signExtend, BitVec.toNat_ofInt]
  push_cast
  exact Int.toNat_of_nonneg hpos

theorem toNat_seed_getElem (context : BitVec 64) (i : Fin 32) :
    ((seed context)[i]).toNat = if i.val < 8 then context.toNat / 2 ^ (8 * i.val) % 256 else 0 := by
  simp only [seed, Fin.getElem_fin, Vector.getElem_ofFn]
  split
  · rw [BitVec.extractLsb'_toNat, Nat.shiftRight_eq_div_pow]
  · rfl

/-! ### Reading bytes one after another -/

section Stream

variable (refill : Bytes32 → Bytes32)

theorem nextByte_of_lt {g : GenState} (h : g.cursor.val < 32) : nextByte refill g =
    (g.buf[g.cursor.val], { g with cursor := ⟨g.cursor.val + 1, by omega⟩ }) := dif_pos h

theorem nextByte_of_exhausted {g : GenState} (h : g.cursor.val = 32) :
    nextByte refill g = ((refill g.buf)[0], { g with buf := refill g.buf, cursor := 1 }) := dif_neg (by omega)

/-- The state after one byte is read. -/
def readByte (g : GenState) : GenState := (nextByte refill g).2

theorem nextBytes_snd (n : Nat) (g : GenState) : (nextBytes refill n g).2 = (readByte refill)^[n] g := by
  induction n generalizing g with
  | zero => rfl
  | succ n ih => exact ih (readByte refill g)

/-- The byte source stands before byte `k` of the context's stream: the seed has been refilled ⌈k / 32⌉ times, and the
cursor is at k mod 32, or exhausted where that is 0 (R33, R101, R102). -/
def AtByte (context : BitVec 64) (k : Nat) (g : GenState) : Prop :=
  g.cursor.val = (if k % 32 = 0 then 32 else k % 32) ∧ g.buf = refill^[(k + 31) / 32] (seed context)

theorem atByte_start (context : BitVec 64) : AtByte refill context 0 (GenState.start context) := ⟨rfl, rfl⟩

/-- NextByte before byte `k` hands out byte `k` of the stream and moves on to the next (R103). -/
theorem nextByte_of_atByte {context : BitVec 64} {k : Nat} {g : GenState} (h : AtByte refill context k g) :
    (nextByte refill g).1 = stream refill context k ∧ AtByte refill context (k + 1) (nextByte refill g).2 := by
  obtain ⟨hcursor, hbuf⟩ := h
  by_cases hk : k % 32 = 0
  · rw [if_pos hk] at hcursor
    have hrefills : refill g.buf = refill^[k / 32 + 1] (seed context) := by
      rw [hbuf, Function.iterate_succ_apply', show (k + 31) / 32 = k / 32 by omega]
    rw [nextByte_of_exhausted refill hcursor]
    refine ⟨?_, ?_, ?_⟩
    · simp only [stream, hrefills, hk]
    · show 1 = _
      rw [if_neg (by omega)]
      omega
    · rw [show (k + 1 + 31) / 32 = k / 32 + 1 by omega]
      exact hrefills
  · rw [if_neg hk] at hcursor
    have hrefills : (k + 31) / 32 = k / 32 + 1 := by omega
    rw [nextByte_of_lt refill (by omega)]
    refine ⟨?_, ?_, ?_⟩
    · simp only [stream, hcursor, hbuf, hrefills]
    · show g.cursor.val + 1 = _
      split <;> omega
    · rw [show (k + 1 + 31) / 32 = (k + 31) / 32 by omega]
      exact hbuf

theorem nextBytes_of_atByte {context : BitVec 64} (n : Nat) {k : Nat} {g : GenState} (h : AtByte refill context k g) :
    (nextBytes refill n g).1 = (List.range' k n).map (stream refill context) := by
  induction n generalizing k g with
  | zero => rfl
  | succ n ih =>
    obtain ⟨hbyte, hnext⟩ := nextByte_of_atByte refill h
    rw [List.range'_succ, List.map_cons, ← hbyte, ← ih hnext]
    rfl

end Stream

end Sys2Proof.Machine

namespace Sys2Proof.Proofs

open Sys2Proof.Machine

/-- Settles O39: after k bytes the source stands before byte k of the stream, by induction on the bytes read. -/
theorem streamOrder : Obligations.StreamOrder := by
  intro refill context n
  rw [nextBytes_of_atByte refill n (atByte_start refill context), List.range_eq_range']

/-- Settles O36: the stored byte is the record's C, and its sign extension is that number modulo 2^W. -/
theorem signedConstantByte : Obligations.SignedConstantByte := by
  refine ⟨fun i c => ?_, fun w c => ?_, fun refill i g h => fetchConstant_of_add refill ?_ g⟩
  · rw [← toInt_byte, Instr.raw, Instr.constant_withConstant]
  · rw [← toInt_byte, toNat_constantValue]
  · rw [Instr.takesConstant_eq, h]; rfl

/-- Settles O37: each byte of the seed by whether it lies in the context. -/
theorem seedIsContextLittleEndian : Obligations.SeedIsContextLittleEndian := toNat_seed_getElem

/-- Settles O38: by whether the buffer is exhausted. -/
theorem nextByteRefills : Obligations.NextByteRefills :=
  fun refill _ => ⟨nextByte_of_lt refill, nextByte_of_exhausted refill⟩

end Sys2Proof.Proofs
end

section
/-! PROOFS. The Generator's invariant (R30, R32, R34, R142, R144), and what follows from it: what ends a call
(R143, R144). -/

namespace Sys2Proof

/-- Fields that make a well-formed operative record (R40). -/
theorem wellFormed_ofFields {op : Opcode} {d : Fin 4} {s : Fin 8} {c : Byte} (hret : op ≠ .ret)
    (hsrc : op = .sub ∨ op = .xor → s.val ≠ d.val) (hc : op ≠ .add → c = 0) :
    (Instr.ofFields op d s c).wellFormed = true := by
  cases op <;> simp_all [Instr.ofFields, Instr.wellFormed]

/-- A decoded record with the constant of its placement is well formed (R40, R83, R137). -/
theorem wellFormed_decodeByte_withConstant (b : Byte) {c : Byte} (hc : (decodeByte b).opcode ≠ .add → c = 0) :
    ((decodeByte b).withConstant c).wellFormed = true := by
  obtain ⟨hsrc, -⟩ := Proofs.decodedSubXorDistinct b
  refine wellFormed_ofFields ?_ (fun hop => (hsrc hop).1) hc
  rw [decodeByte_opcode]
  exact mapOp_ne_ret _

end Sys2Proof

namespace Sys2Proof.Machine

/-! ### Counts -/

/-- No more cells can be busy than the table has (R130). -/
theorem busyCount_le (busy : Vector (Vector Bool 2) 54) : busyCount busy ≤ 108 := by
  have hslot : ∀ n ∈ busy.toList.map fun lanes => lanes.toList.count true, n ≤ 2 := by
    intro n hn
    obtain ⟨lanes, -, rfl⟩ := List.mem_map.mp hn
    exact List.count_le_length.trans_eq lanes.length_toList
  simpa [busyCount] using List.sum_le_card_nsmul _ 2 hslot

theorem lastCellCount_le (busy : Vector (Vector Bool 2) 54) : lastCellCount busy ≤ 3 := by
  have h1 := Bool.toNat_le busy[51][0]
  have h2 := Bool.toNat_le busy[53][0]
  have h3 := Bool.toNat_le busy[53][1]
  unfold lastCellCount
  omega

/-- One of the three cells in which a record can complete at slot 54 (R144). -/
def IsLastCell (s : Fin 54) (l : Fin 2) : Prop := s = 51 ∧ l = 0 ∨ s = 53

/-- A record that completes at slot 54 stands in one of the three last cells (R144). -/
theorem isLastCell_of_completes {i : Instr} {s : Fin 54} {l : Fin 2} (hret : i.isRet = false) (hl : l ∈ lanes i)
    (h : s.val + latency i = 54) : IsLastCell s l := by
  by_cases hmul : i.opcode = .mul
  · rw [latency_of_mul hmul] at h
    have hlane : l = 0 := ((mem_lanes_iff_of_operative hret l).mp hl).resolve_left fun hne => hne hmul
    exact .inl ⟨Fin.ext (Nat.add_right_cancel h), hlane⟩
  · rw [latency_of_ne_mul hmul (by simpa [Instr.isRet_eq] using hret)] at h
    exact .inr (Fin.ext (Nat.add_right_cancel h))

theorem lastCellCount_eq (busy : Vector (Vector Bool 2) 54) : lastCellCount busy =
    busy[(51 : Fin 54)][(0 : Fin 2)].toNat + busy[(53 : Fin 54)][(0 : Fin 2)].toNat +
      busy[(53 : Fin 54)][(1 : Fin 2)].toNat := rfl

/-- Marking a free cell counts one more of the last cells where it is one of them, and never one less. -/
theorem lastCellCount_markBusy {busy : Vector (Vector Bool 2) 54} {s : Fin 54} {l : Fin 2} (h : busy[s][l] = false) :
    lastCellCount busy ≤ lastCellCount (markBusy busy s l) ∧
      (IsLastCell s l → lastCellCount busy < lastCellCount (markBusy busy s l)) := by
  have hle : ∀ (s' : Fin 54) (l' : Fin 2), busy[s'][l'].toNat ≤ (markBusy busy s l)[s'][l'].toNat := by
    intro s' l'
    rw [markBusy_get]
    split
    · exact Bool.toNat_le _
    · exact Nat.le_refl _
  have hlt : busy[s][l].toNat < (markBusy busy s l)[s][l].toNat := by
    rw [markBusy_get, h, if_pos ⟨rfl, rfl⟩]
    decide
  have h1 := hle 51 0
  have h2 := hle 53 0
  have h3 := hle 53 1
  rw [lastCellCount_eq, lastCellCount_eq]
  refine ⟨by omega, ?_⟩
  rintro (⟨rfl, rfl⟩ | rfl)
  · omega
  · obtain rfl | rfl : l = 0 ∨ l = 1 := by omega
    · omega
    · omega

/-- Setting the counter of a register that has not completed counts it where it completes now (R144). -/
theorem completedCount_set {lat : Vector Nat 4} {d : Fin 4} (h : lat[d] ≠ 54) (n : Nat) :
    completedCount (lat.set d.val n d.isLt) = completedCount lat + if n = 54 then 1 else 0 := by
  have hd : (lat[d.val] == 54) = false := by simpa using h
  simp [completedCount, Vector.count_set, hd]

/-- Where every counter is at 54, all four registers count as completed (R139, R144). -/
theorem completedCount_of_all {lat : Vector Nat 4} (h : ∀ r : Fin 4, lat[r] = 54) : completedCount lat = 4 := by
  rw [completedCount, List.count_eq_length.mpr, lat.length_toList]
  intro n hn
  obtain ⟨r, hr, rfl⟩ := Vector.mem_iff_getElem.mp (Vector.mem_toList_iff.mp hn)
  exact (h ⟨r, hr⟩).symm

/-! ### Termination's test -/

theorem terminated_iff (g : GenState) : terminated g = true ↔
    (∀ r : Fin 4, g.lat[r] = 54) ∨ g.fail = 64 ∨ g.code.length = 109 := by
  have hall : g.lat.toList.all (· == Config.totalLatency) = true ↔ ∀ r : Fin 4, g.lat[r] = 54 := by
    simp [Fin.forall_iff]
  simp only [terminated, Bool.or_eq_true, hall, beq_iff_eq, or_assoc]

/-! ### The invariant -/

theorem GenState.blank_inv : GenState.blank.Inv :=
  ⟨by decide, by decide, by decide, by decide, by decide⟩

/-- The start of a call differs from the blank state in the buffer alone (R36). -/
theorem GenState.start_inv (context : BitVec 64) : (GenState.start context).Inv :=
  ⟨blank_inv.lat_le, blank_inv.fail_le, blank_inv.code_busy, blank_inv.code_wf, blank_inv.completed_le⟩

section Invariant

variable {g : GenState} (h : g.Inv)
include h

/-- Each record has its cell, so there are no more records than cells (R142, R143). -/
theorem GenState.Inv.code_length_le : g.code.length ≤ 108 := h.code_busy ▸ busyCount_le g.busy

/-- At most three registers complete, each in a last cell of its own (R144). -/
theorem GenState.Inv.completedCount_le : completedCount g.lat ≤ 3 := h.completed_le.trans (lastCellCount_le g.busy)

/-- Only the retry cap ends a call (R143, R144). -/
theorem GenState.Inv.terminated_iff_fail : terminated g = true ↔ g.fail = 64 := by
  rw [terminated_iff]
  constructor
  · rintro (hlat | hfail | hcode)
    · have hfour := completedCount_of_all hlat
      have hthree := h.completedCount_le
      omega
    · exact hfail
    · have hcap := h.code_length_le
      omega
  · exact fun hfail => .inr (.inl hfail)

theorem GenState.Inv.fail_lt (ht : terminated g = false) : g.fail < 64 := by
  have hne : g.fail ≠ 64 := fun hfail => by simp [h.terminated_iff_fail.mpr hfail] at ht
  exact lt_of_le_of_ne h.fail_le hne

/-- A placement keeps R144's count: a register that completes now takes one of the last cells. -/
theorem GenState.Inv.completed_le_of_placement {i : Instr} {s : Fin 54} {l : Fin 2}
    (hcell : placement g i = some (s, l)) :
    completedCount (g.lat.set i.dst.val (s.val + latency i) i.dst.isLt) ≤ lastCellCount (markBusy g.busy s l) := by
  obtain ⟨hdst, hlane, hfree, -, hret⟩ := placement_spec hcell
  obtain ⟨hle, hlt⟩ := lastCellCount_markBusy hfree
  have hold := h.completed_le
  rw [completedCount_set (by omega)]
  split
  · next hlast => exact (Nat.succ_le_succ hold).trans (hlt (isLastCell_of_completes hret hlane hlast))
  · exact hold.trans hle

/-- An attempt of a call that has not terminated keeps the invariant. -/
theorem GenState.Inv.attempt (refill : Bytes32 → Bytes32) (ht : terminated g = false) : (attempt refill g).Inv := by
  cases attempt_effect refill g with
  | placed s l c hcell hconst hbusy hlat hcode hfail =>
    obtain ⟨-, -, hfree, hle, -⟩ := placement_spec hcell
    refine ⟨fun r => ?_, by omega, ?_, fun i hi => ?_, ?_⟩
    · rw [hlat, lat_set_get]
      split
      · exact hle
      · exact h.lat_le r
    · rw [hcode, hbusy, busyCount_markBusy hfree, List.length_append, h.code_busy]; rfl
    · rw [hcode, List.mem_append, List.mem_singleton] at hi
      obtain hi | rfl := hi
      · exact h.code_wf i hi
      · exact ⟨wellFormed_decodeByte_withConstant _ fun hop => by rw [hconst, if_neg hop], by simp⟩
    · rw [hlat, hbusy]
      exact h.completed_le_of_placement hcell
  | failed hcell hbusy hlat hcode hfail =>
    have hlt := h.fail_lt ht
    exact ⟨hlat ▸ h.lat_le, by omega, by rw [hcode, hbusy, h.code_busy], hcode ▸ h.code_wf,
      by rw [hlat, hbusy]; exact h.completed_le⟩

end Invariant

end Sys2Proof.Machine

namespace Sys2Proof.Proofs

open Sys2Proof.Machine

/-- Settles O48: a placement takes a free cell, and a register that completes takes one of the three last ones. -/
theorem generatorInvariantKept : Obligations.GeneratorInvariantKept :=
  ⟨GenState.start_inv, fun refill _ h ht => h.attempt refill ht⟩

/-- Settles O51: 108 cells hold at most 108 records, and three last cells at most three completed registers. -/
theorem onlyRetryCapEndsGeneration : Obligations.OnlyRetryCapEndsGeneration :=
  fun _ h => ⟨h.code_length_le, h.completedCount_le, h.terminated_iff_fail⟩

/-- Settles O47: the test's three disjuncts, and the Generator's two steps. -/
theorem generatorTurn : Obligations.GeneratorTurn :=
  ⟨terminated_iff, fun _ h ha ht => (step_of_generator h ha).trans (generatorStep_of_terminated ht),
    fun _ h ha ht => (step_of_generator h ha).trans (generatorStep_of_not_terminated ht)⟩

end Sys2Proof.Proofs
end

section
/-! PROOFS. The machine's invariant (R24, R25, R28, R37, R235): it holds at reset, and each agent's step keeps it. -/

namespace Sys2Proof.Machine

/-! ### The invariant by whose turn it is -/

/-- Outside an execute call the invariant is about the Program and the Generator alone. -/
theorem State.inv_of_not_executor {s : State} (ha : s.agent ≠ .executor) (hprog : s.prog.length ≤ 110)
    (hprogram : s.program.length ≤ 110) (hgen : s.gen.Inv) (hblank : s.agent ≠ .generator → s.gen = GenState.blank) :
    s.Inv :=
  ⟨hprog, hprogram, fun h => absurd h ha, fun h => absurd h ha, fun _ h => absurd h ha, hgen, hblank⟩

theorem State.inv_resetAt (w : Nat) : (State.resetAt w).Inv :=
  inv_of_not_executor (s := State.resetAt w) nofun (Nat.zero_le _) (Nat.zero_le _) GenState.blank_inv
    fun _ => rfl

section Steps

variable {s t : State} (h : s.Inv)
include h

/-- Whatever the reference, the Executor sees at most 110 records where the buffer holds no more (R28, R235). -/
theorem State.Inv.select_length_le {p : List Instr} (hp : p.length ≤ 110) : (s.ref.select p).length ≤ 110 := by
  have hprogram := h.program_le
  cases href : s.ref with
  | buffer => exact hp
  | own q => rwa [State.program_of_own href] at hprogram

/-- The start of a call (R260, R261). -/
theorem State.Inv.startCall {c : HostCall s.width} {rest : List (HostCall s.width)} (ha : s.agent = .host)
    (hc : startCall { s with calls := rest } c = .next t) : t.Inv := by
  obtain ⟨context, -, rfl⟩ | ⟨raw, vars, consts, ref, -, href, rfl⟩ := startCall_cases hc
  · exact inv_of_not_executor nofun (Nat.zero_le _) (h.select_length_le (Nat.zero_le _))
      (GenState.start_inv context) (fun e => absurd rfl e)
  · have hprogram : (ref.select s.prog).length ≤ 110 := by
      obtain ⟨-, rfl⟩ | ⟨rs, p, -, -, rfl, hp⟩ := launchProgram_ok href
      · exact h.prog_le
      · exact hp
    exact ⟨h.prog_le, hprogram, fun _ => Nat.zero_le _, nofun, nofun,
      h.gen_inv, fun _ => h.gen_blank (by simp [ha])⟩

/-- The Generator's return: with RET appended its records still fit the buffer (R28, R141). -/
theorem State.Inv.finishGenerator :
    ({ s with prog := finishedProgram s.gen, gen := GenState.blank, agent := .host } : State).Inv := by
  have hcode := h.gen_inv.code_length_le
  have hprog : (finishedProgram s.gen).length ≤ 110 := by
    rw [finishedProgram, List.length_append, List.length_singleton]
    omega
  exact inv_of_not_executor nofun hprog (h.select_length_le hprog) GenState.blank_inv fun _ => rfl

/-- A decode attempt (R140). -/
theorem State.Inv.attempt (ha : s.agent = .generator) (ht : terminated s.gen = false) :
    ({ s with gen := Machine.attempt Config.refill s.gen } : State).Inv :=
  inv_of_not_executor (by simp [ha]) h.prog_le h.program_le (h.gen_inv.attempt Config.refill ht)
    (fun e => absurd ha e)

/-- Fetching past the end (R172, R235). -/
theorem State.Inv.runOffEnd (ha : s.agent = .executor) (hf : s.fetch = none) : s.runOffEnd.Inv :=
  ⟨h.prog_le, h.program_le, h.pc_le, nofun,
    fun _ _ _ => le_antisymm (h.pc_le ha) (List.getElem?_eq_none_iff.mp hf), h.gen_inv, h.gen_blank⟩

/-- One instruction: RET halts at its own index, and any other moves on by one record (R172, R173). -/
theorem State.Inv.exec {i : Instr} (hs : s.status = .running) (hf : s.fetch = some i)
    (he : exec i s = .next t) : t.Inv := by
  obtain ⟨hpc, -⟩ := List.getElem?_eq_some_iff.mp hf
  cases hi : i.isRet with
  | true =>
    rw [exec_of_ret hi] at he
    cases he
    exact ⟨h.prog_le, h.program_le, h.pc_le, fun _ _ => ⟨i, hf, hi⟩, nofun, h.gen_inv, h.gen_blank⟩
  | false =>
    rw [exec_of_not_ret hi] at he
    cases he
    have hne : ∀ st, st ≠ .running → (s.retire i.dst (resultOf i s)).status ≠ st := fun _ hst e => hst (e.symm.trans hs)
    exact ⟨h.prog_le, h.program_le, fun _ => hpc, fun _ e => absurd e (hne _ nofun),
      fun _ _ e => absurd e (hne _ nofun), h.gen_inv, h.gen_blank⟩

/-- An execute call's return to the Host (R25). -/
theorem State.Inv.returnToHost (ha : s.agent = .executor) : (s.setAgent .host).Inv :=
  inv_of_not_executor nofun h.prog_le h.program_le h.gen_inv fun _ => h.gen_blank (by simp [ha])

theorem State.Inv.step (hstep : step s = .next t) : t.Inv := by
  obtain ⟨-, -, rfl⟩ | ⟨ha, c, rest, -, hc⟩ | ⟨-, -, rfl⟩ | ⟨ha, ht, rfl⟩ | ⟨ha, -, hf, rfl⟩ | ⟨-, hs, i, hf, he⟩ |
    ⟨ha, -, rfl⟩ := step_cases hstep
  · exact h
  · exact h.startCall ha hc
  · exact h.finishGenerator
  · exact h.attempt ha ht
  · exact h.runOffEnd ha hf
  · exact h.exec hs hf he
  · exact h.returnToHost ha

end Steps

end Sys2Proof.Machine

namespace Sys2Proof.Proofs

open Sys2Proof.Machine

/-- Settles O49: by what a step can be, one lemma for each. -/
theorem stepKeepsMachineInvariant : Obligations.StepKeepsMachineInvariant := fun _ _ h hstep => h.step hstep

/-- Settles O50: it is the Host's turn, with an empty buffer and the blank Generator state. -/
theorem resetHasMachineInvariant : Obligations.ResetHasMachineInvariant :=
  ⟨State.inv_resetAt _, State.inv_resetAt⟩

end Sys2Proof.Proofs
end

section
/-! PROOFS. Single instructions: ADD (R192), the rotations by value and by bits (R15, R210, R211, R213), RET (R173), the
pc (R24, R172), and records that the Generator never emits (R182). -/

namespace Sys2Proof

/-! ### The compact byte -/

/-- Raw 5 alone selects a ROR (R105). -/
theorem mapOp_eq_ror_iff (raw : Fin 8) : mapOp raw = .ror ↔ raw.val = 5 := by
  revert raw; decide

/-- Raw 6 alone selects a ROL (R105). -/
theorem mapOp_eq_rol_iff (raw : Fin 8) : mapOp raw = .rol ↔ raw.val = 6 := by
  revert raw; decide

/-- The record of an operation that has no collision fix: its fields as they stand (R106, R108). -/
theorem decodeByte_of_no_fix {b : Byte} {op : Opcode} (h : mapOp (rawField b) = op) (hsub : op ≠ .sub)
    (hxor : op ≠ .xor) : decodeByte b = Instr.ofFields op (dstField b) (srcField b) 0 := by
  rw [decodeByte_of_mapOp h, fixCollision_of_other hsub hxor]

end Sys2Proof

namespace Sys2Proof.Machine

/-! ### Results as numbers -/

/-- AddResult is the sum of the operands and the signed constant, modulo 2^W (R192). -/
theorem toNat_addResult {w : Nat} (a b : Word w) (c : Byte) :
    ((addResult a b c).toNat : Int) = ((a.toNat : Int) + b.toNat + c.toInt) % 2 ^ w := by
  rw [addResult, BitVec.toNat_add, BitVec.toNat_add]
  push_cast
  rw [toNat_constantValue, Int.emod_add_emod, Int.add_emod_emod]

/-- The rotation formula needs no case for amount 0: the bits shifted out are none (R15). -/
theorem rotr_eq {w : Nat} (a : Word w) (n : Nat) : rotr a n = a >>> n ||| a <<< (w - n) := by
  unfold rotr
  split
  · next h => subst h; simp
  · rfl

theorem rotl_eq {w : Nat} (a : Word w) (n : Nat) : rotl a n = a <<< n ||| a >>> (w - n) := by
  unfold rotl
  split
  · next h => subst h; simp [BitVec.ushiftRight_eq_zero]
  · rfl

/-- RorResult by value (R15, R210). -/
theorem toNat_rorResult {w : Nat} (a b : Word w) : (rorResult a b).toNat =
    (a.toNat >>> (b.toNat % w) ||| a.toNat <<< (w - b.toNat % w)) % 2 ^ w := by
  have hright : a.toNat >>> (b.toNat % w) < 2 ^ w := (Nat.shiftRight_le _ _).trans_lt a.isLt
  rw [rorResult, rotateAmount, rotr_eq, BitVec.toNat_or, BitVec.toNat_ushiftRight, BitVec.toNat_shiftLeft,
    Nat.or_mod_two_pow, Nat.mod_eq_of_lt hright]

/-- RolResult by value (R15, R211). -/
theorem toNat_rolResult {w : Nat} (a b : Word w) : (rolResult a b).toNat =
    (a.toNat <<< (b.toNat % w) ||| a.toNat >>> (w - b.toNat % w)) % 2 ^ w := by
  have hright : a.toNat >>> (w - b.toNat % w) < 2 ^ w := (Nat.shiftRight_le _ _).trans_lt a.isLt
  rw [rolResult, rotateAmount, rotl_eq, BitVec.toNat_or, BitVec.toNat_ushiftRight, BitVec.toNat_shiftLeft,
    Nat.or_mod_two_pow, Nat.mod_eq_of_lt hright]

theorem rorResult_eq_rotateRight {w : Nat} (a b : Word w) : rorResult a b = a.rotateRight b.toNat := by
  rw [rorResult, rotateAmount, rotr_eq, BitVec.rotateRight_def]

theorem rolResult_eq_rotateLeft {w : Nat} (a b : Word w) : rolResult a b = a.rotateLeft b.toNat := by
  rw [rolResult, rotateAmount, rotl_eq, BitVec.rotateLeft_def]

/-- A bit's place after it moves up by `n` in a word of `w` bits, around the end at most once. -/
theorem add_mod_width {k n w : Nat} (hk : k < w) (hn : n < w) :
    (k + n) % w = if k + n < w then k + n else k + n - w := by
  split
  · next h => exact Nat.mod_eq_of_lt h
  · next h => rw [Nat.mod_eq_sub_mod (by omega), Nat.mod_eq_of_lt (by omega)]

/-- Bit k after ROR is the old bit (k + n) mod W (R210). -/
theorem testBit_rorResult {w : Nat} (a b : Word w) {k : Nat} (hk : k < w) :
    (rorResult a b).toNat.testBit k = a.toNat.testBit ((k + b.toNat % w) % w) := by
  have hn : b.toNat % w < w := Nat.mod_lt _ (by omega)
  rw [rorResult_eq_rotateRight, BitVec.testBit_toNat, BitVec.testBit_toNat, BitVec.getLsbD_rotateRight,
    add_mod_width hk hn]
  by_cases h : k + b.toNat % w < w
  · rw [if_pos h, decide_eq_true (by omega), cond_true, Nat.add_comm]
  · rw [if_neg h, decide_eq_false (by omega), cond_false, decide_eq_true hk, Bool.true_and]
    congr 1
    omega

/-- After ROL the old bit k is bit (k + n) mod W (R211). -/
theorem testBit_rolResult {w : Nat} (a b : Word w) {k : Nat} (hk : k < w) :
    (rolResult a b).toNat.testBit ((k + b.toNat % w) % w) = a.toNat.testBit k := by
  have hn : b.toNat % w < w := Nat.mod_lt _ (by omega)
  have hlt : (k + b.toNat % w) % w < w := Nat.mod_lt _ (by omega)
  rw [rolResult_eq_rotateLeft, BitVec.testBit_toNat, BitVec.testBit_toNat, BitVec.getLsbD_rotateLeft,
    decide_eq_true hlt, Bool.true_and, add_mod_width hk hn]
  by_cases h : k + b.toNat % w < w
  · rw [if_pos h, decide_eq_false (by omega), cond_false]
    congr 1
    omega
  · rw [if_neg h, decide_eq_true (by omega), cond_true]
    congr 1
    omega

/-- An amount that is 0 mod W rotates nothing (R213). -/
theorem rorResult_of_amount_zero {w : Nat} (a : Word w) {b : Word w} (h : b.toNat % w = 0) : rorResult a b = a :=
  if_pos h

theorem rolResult_of_amount_zero {w : Nat} (a : Word w) {b : Word w} (h : b.toNat % w = 0) : rolResult a b = a :=
  if_pos h

/-! ### One instruction -/

/-- ROR by value in one step (R210). -/
theorem exec_ror_value (s : State) (d : Fin 4) (r : Fin 8) (c : Byte) : ∃ t, exec (.ror d r c) s = .next t ∧
    t.x (varReg d) = (s.x (varReg d) >>> (s.x r % s.width) |||
      s.x (varReg d) <<< (s.width - s.x r % s.width)) % 2 ^ s.width ∧ OnlyWrites s t d := by
  obtain ⟨t, hexec, hx, honly⟩ := exec_writes_resultOf (i := .ror d r c) rfl s
  exact ⟨t, hexec, hx.trans (toNat_rorResult _ _), honly⟩

/-- ROL by value in one step (R211). -/
theorem exec_rol_value (s : State) (d : Fin 4) (r : Fin 8) (c : Byte) : ∃ t, exec (.rol d r c) s = .next t ∧
    t.x (varReg d) = (s.x (varReg d) <<< (s.x r % s.width) |||
      s.x (varReg d) >>> (s.width - s.x r % s.width)) % 2 ^ s.width ∧ OnlyWrites s t d := by
  obtain ⟨t, hexec, hx, honly⟩ := exec_writes_resultOf (i := .rol d r c) rfl s
  exact ⟨t, hexec, hx.trans (toNat_rolResult _ _), honly⟩

/-- An instruction whose result is the old x[dst] changes no register. -/
theorem exec_keeps_registers {i : Instr} (h : i.isRet = false) {s : State} (hres : resultOf i s = dstValue s i.dst) :
    ∃ t, exec i s = .next t ∧ ∀ q, t.x q = s.x q := by
  refine ⟨_, exec_of_not_ret h s, fun q => ?_⟩
  rw [State.x_retire, hres]
  split
  · next hq => rw [hq]; rfl
  · rfl

/-- No instruction reads the Generator's state (R35, R170). -/
theorem exec_setGen (i : Instr) {s t : State} (h : exec i s = .next t) (g : GenState) :
    exec i { s with gen := g } = .next { t with gen := g } := by
  cases i <;> (cases h; rfl)

/-- C is ADD's alone (R182). -/
theorem exec_withConstant {i : Instr} (h : i.opcode ≠ .add) (c : Byte) (s : State) :
    exec (i.withConstant c) s = exec i s := by
  cases i with
  | add => exact absurd rfl h
  | _ => rfl

end Sys2Proof.Machine

namespace Sys2Proof.Proofs

open Sys2Proof.Machine

/-- Settles O11: a rotation by the amount mod W is the library's, bit by bit. -/
theorem rotationMovesBits : Obligations.RotationMovesBits := by
  intro s d r c
  obtain ⟨t, hror, ht, -⟩ := exec_writes_resultOf (i := .ror d r c) rfl s
  obtain ⟨u, hrol, hu, -⟩ := exec_writes_resultOf (i := .rol d r c) rfl s
  refine ⟨t, u, hror, hrol, fun k hk => ⟨?_, ?_⟩⟩
  · exact (congrArg (Nat.testBit · k) ht).trans (testBit_rorResult _ _ hk)
  · exact (congrArg (Nat.testBit · _) hu).trans (testBit_rolResult _ _ hk)

/-- Settles O2: ADD retires AddResult; its constant is the next byte of the stream. -/
theorem addSumModWidth : Obligations.AddSumModWidth := by
  refine ⟨fun s d r c => ?_, fun b c rest hb => ?_, fun _ _ _ => rfl, fun _ _ _ => ⟨rfl, rfl⟩⟩
  · obtain ⟨t, hexec, hx, honly⟩ := exec_writes_resultOf (i := .add d r c) rfl s
    exact ⟨t, hexec, (congrArg Nat.cast hx).trans (toNat_addResult _ _ _), honly⟩
  · have hdecode : decodeByte b = .add (dstField b) (srcField b) 0 :=
      decodeByte_of_no_fix ((mapOp_eq_add_iff _).mpr hb) (by decide) (by decide)
    refine ⟨hdecode, ?_⟩
    rw [decodeStream_of_takesConstant ((decodeByte_takesConstant_iff b).mpr hb), hdecode]
    rfl

/-- Settles O4: ROR retires RorResult, R15's formula by value. -/
theorem rorRotatesRight : Obligations.RorRotatesRight :=
  ⟨exec_ror_value, fun _ hb => decodeByte_of_no_fix ((mapOp_eq_ror_iff _).mpr hb) (by decide) (by decide),
    fun _ _ => rfl, fun _ _ _ => ⟨rfl, rfl⟩⟩

/-- Settles O5: ROL retires RolResult, R15's formula by value. -/
theorem rolRotatesLeft : Obligations.RolRotatesLeft :=
  ⟨exec_rol_value, fun _ hb => decodeByte_of_no_fix ((mapOp_eq_rol_iff _).mpr hb) (by decide) (by decide),
    fun _ _ => rfl, fun _ _ _ => ⟨rfl, rfl⟩⟩

/-- Settles O7: RET's arm reads no field, and MapOp has no RET. -/
theorem retOnlyHalts : Obligations.RetOnlyHalts := ⟨fun _ _ _ _ => rfl, decodeByte_isRet, rfl⟩

/-- Settles O9: an operative record retires, a RET sets the status alone. -/
theorem pcAdvancesUnlessRet : Obligations.PcAdvancesUnlessRet := by
  intro i s t h
  refine ⟨fun hi => ?_, fun hi => ?_⟩
  · rw [exec_of_not_ret hi] at h
    cases h
    exact ⟨rfl, rfl⟩
  · rw [exec_of_ret hi] at h
    cases h
    exact ⟨rfl, fun _ => rfl⟩

/-- Settles O10: only ADD's meaning has a C in it, RET's has no field, and a − a and a ⊕ a are 0. -/
theorem neverGeneratedRecordsExecute : Obligations.NeverGeneratedRecordsExecute := by
  refine ⟨fun i c s h => exec_withConstant h c s, fun i j s hi hj => by rw [exec_of_ret hi, exec_of_ret hj],
    fun s d c => ⟨?_, ?_⟩⟩
  · obtain ⟨t, hexec, hx, -⟩ := exec_writes_resultOf (i := .sub d (varReg d) c) rfl s
    exact ⟨t, hexec, hx.trans (congrArg BitVec.toNat (BitVec.sub_self (dstValue s d)))⟩
  · obtain ⟨t, hexec, hx, -⟩ := exec_writes_resultOf (i := .xor d (varReg d) c) rfl s
    exact ⟨t, hexec, hx.trans (congrArg BitVec.toNat (BitVec.xor_self (x := dstValue s d)))⟩

/-- Settles O12: the result by value names x[dst], the amount mod W and the width alone; amount 0 gives x[dst]. -/
theorem rotationAmountModWidth : Obligations.RotationAmountModWidth := by
  refine ⟨fun s t d d' r r' c c' hw hdst hsrc => ⟨?_, ?_⟩, fun s d r c h => ⟨?_, ?_⟩⟩
  · obtain ⟨s', hs, hx, -⟩ := exec_ror_value s d r c
    obtain ⟨t', ht, hy, -⟩ := exec_ror_value t d' r' c'
    exact ⟨s', t', hs, ht, by rw [hx, hy, hsrc, hdst, hw]⟩
  · obtain ⟨s', hs, hx, -⟩ := exec_rol_value s d r c
    obtain ⟨t', ht, hy, -⟩ := exec_rol_value t d' r' c'
    exact ⟨s', t', hs, ht, by rw [hx, hy, hsrc, hdst, hw]⟩
  · exact exec_keeps_registers (i := .ror d r c) rfl (rorResult_of_amount_zero _ h)
  · exact exec_keeps_registers (i := .rol d r c) rfl (rolResult_of_amount_zero _ h)

/-- Settles O14: by the arms of `exec`. -/
theorem executorIgnoresGenerator : Obligations.ExecutorIgnoresGenerator := fun i _ _ g h => exec_setGen i h g

end Sys2Proof.Proofs
end

section
/-! PROOFS. A whole generate call: it terminates (R145), the stream bytes it reads (R145, R248), and the Program it
returns (R40, R151). -/

namespace Sys2Proof.Machine

variable (refill : Bytes32 → Bytes32)

/-! ### Several attempts -/

theorem attempts_of_terminated (n : Nat) {g : GenState} (h : terminated g = true) : attempts refill n g = g := by
  cases n with
  | zero => rfl
  | succ n => exact if_pos h

theorem attempts_succ_of_not_terminated (n : Nat) {g : GenState} (h : terminated g = false) :
    attempts refill (n + 1) g = attempts refill n (attempt refill g) :=
  if_neg (by simp [h])

/-- Attempts join end to end. -/
theorem attempts_add (m n : Nat) (g : GenState) :
    attempts refill (m + n) g = attempts refill n (attempts refill m g) := by
  induction m generalizing g with
  | zero => rw [Nat.zero_add]; rfl
  | succ m ih =>
    cases h : terminated g with
    | true => simp only [attempts_of_terminated refill _ h]
    | false => rw [Nat.add_right_comm, attempts_succ_of_not_terminated refill _ h,
        attempts_succ_of_not_terminated refill _ h, ih]

/-- The last of several attempts. -/
theorem attempts_succ_of_last (n : Nat) {g : GenState} (h : terminated (attempts refill n g) = false) :
    attempts refill (n + 1) g = attempt refill (attempts refill n g) := by
  rw [attempts_add]
  exact attempts_succ_of_not_terminated refill 0 h

/-- Once Terminated holds, further attempts change nothing (R140). -/
theorem attempts_of_terminated_of_le {m n : Nat} {g : GenState} (h : terminated (attempts refill m g) = true)
    (hmn : m ≤ n) : attempts refill n g = attempts refill m g := by
  rw [← Nat.add_sub_cancel' hmn, attempts_add, attempts_of_terminated refill _ h]

theorem GenState.Inv.attempts {g : GenState} (h : g.Inv) (n : Nat) : (attempts refill n g).Inv := by
  induction n with
  | zero => exact h
  | succ n ih =>
    cases ht : terminated (Machine.attempts refill n g) with
    | true => rwa [attempts_of_terminated_of_le refill ht n.le_succ]
    | false => rw [attempts_succ_of_last refill n ht]; exact ih.attempt refill ht

/-- The call has not terminated before its `n`-th attempt. -/
def Ongoing (n : Nat) (g : GenState) : Prop := ∀ k < n, terminated (attempts refill k g) = false

theorem Ongoing.of_succ {n : Nat} {g : GenState} (h : Ongoing refill (n + 1) g) : Ongoing refill n g :=
  fun k hk => h k (hk.trans n.lt_succ_self)

theorem Ongoing.attempts_succ {n : Nat} {g : GenState} (h : Ongoing refill (n + 1) g) :
    attempts refill (n + 1) g = attempt refill (attempts refill n g) :=
  attempts_succ_of_last refill n (h n n.lt_succ_self)

/-! ### Termination -/

/-- R145's measure: a placement counts as many attempts as the retry cap allows in its stead. -/
def progress (g : GenState) : Nat := 64 * g.code.length + g.fail

theorem progress_lt_attempt {g : GenState} (h : g.Inv) (ht : terminated g = false) :
    progress g < progress (attempt refill g) := by
  have hfail := h.fail_lt ht
  cases attempt_effect refill g with
  | placed s l c hcell hconst hbusy hlat hcode hfail' =>
    have hlen : (attempt refill g).code.length = g.code.length + 1 := by simp [hcode]
    unfold progress
    omega
  | failed hcell hbusy hlat hcode hfail' =>
    unfold progress
    rw [hcode]
    omega

/-- At most 108 records, each after at most 64 attempts, and 64 failures in the end (R145). -/
theorem GenState.Inv.progress_le {g : GenState} (h : g.Inv) : progress g ≤ 6976 := by
  have hcode := h.code_length_le
  have hfail := h.fail_le
  unfold progress
  omega

theorem le_progress_attempts {g : GenState} (h : g.Inv) {n : Nat} (hn : Ongoing refill n g) :
    n ≤ progress (attempts refill n g) := by
  induction n with
  | zero => exact Nat.zero_le _
  | succ n ih =>
    rw [hn.attempts_succ]
    have hlt := progress_lt_attempt refill (h.attempts refill n) (hn n n.lt_succ_self)
    exact (Nat.succ_le_succ (ih hn.of_succ)).trans hlt

/-- A call terminates within 6976 attempts, and at a first one (R145). -/
theorem exists_first_terminated {g : GenState} (h : g.Inv) :
    ∃ n ≤ 6976, terminated (attempts refill n g) = true ∧ Ongoing refill n g := by
  have hbound : ∀ n, Ongoing refill n g → n ≤ 6976 := fun n hn =>
    (le_progress_attempts refill h hn).trans (h.attempts refill n).progress_le
  have hex : ∃ n, terminated (attempts refill n g) = true := by
    by_contra hnone
    have hall : Ongoing refill 6977 g := fun k _ => Bool.eq_false_of_not_eq_true fun hk => hnone ⟨k, hk⟩
    exact absurd (hbound 6977 hall) (by decide)
  have hongoing : Ongoing refill (Nat.find hex) g := fun k hk => Bool.eq_false_of_not_eq_true (Nat.find_min hex hk)
  exact ⟨Nat.find hex, hbound _ hongoing, Nat.find_spec hex, hongoing⟩

/-! ### The stream bytes of a call -/

/-- Two Generators that read the same bytes from here on. -/
def SameSource (g h : GenState) : Prop := g.buf = h.buf ∧ g.cursor = h.cursor

theorem SameSource.readByte {g h : GenState} (hgh : SameSource g h) :
    SameSource (readByte refill g) (readByte refill h) := by
  obtain ⟨buf, cursor, lat, busy, fail, code⟩ := g
  obtain ⟨buf', cursor', lat', busy', fail', code'⟩ := h
  obtain ⟨rfl, rfl⟩ : buf = buf' ∧ cursor = cursor' := hgh
  unfold Machine.readByte nextByte
  split
  · exact ⟨rfl, rfl⟩
  · exact ⟨rfl, rfl⟩

theorem SameSource.iterate {g h : GenState} (hgh : SameSource g h) (n : Nat) :
    SameSource ((Machine.readByte refill)^[n] g) ((Machine.readByte refill)^[n] h) := by
  induction n generalizing g h with
  | zero => exact hgh
  | succ n ih => exact ih (hgh.readByte refill)

/-- The ADDs among the placed records. -/
def addCount (code : List Instr) : Nat := code.countP fun i => decide (i.opcode = .add)

theorem addCount_append_withConstant (code : List Instr) (i : Instr) (c : Byte) :
    addCount (code ++ [i.withConstant c]) = addCount code + if i.opcode = .add then 1 else 0 := by
  simp [addCount, List.countP_singleton]

/-- An attempt reads one byte, and one more where it places an ADD (R75). -/
theorem attempt_source (g : GenState) : ∃ m, addCount (attempt refill g).code = addCount g.code + m ∧
    SameSource (attempt refill g) ((readByte refill)^[m + 1] g) := by
  obtain ⟨b, g1, h1, -⟩ := nextByte_keeps refill g
  have hread : readByte refill g = g1 := congrArg Prod.snd h1
  have hplacement : placement g1 (decodeByte b) = placement g (decodeByte b) := by
    rw [← hread, readByte, placement_nextByte]
  have hadd := (decodeByte b).takesConstant_eq
  have hone (h : placement g1 (decodeByte b) = none ∨ (decodeByte b).takesConstant = false) :
      SameSource (attempt refill g) ((readByte refill)^[1] g) := by
    rw [Function.iterate_one, hread]
    exact attempt_one_byte refill h1 h
  have heffect : AttemptEffect refill (decodeByte b) g (attempt refill g) := by
    have e := attempt_effect refill g
    rwa [h1] at e
  cases heffect with
  | placed s l c hcell hconst hbusy hlat hcode =>
    refine ⟨_, by rw [hcode, addCount_append_withConstant], ?_⟩
    split
    · next hop =>
      obtain ⟨hbuf, hcursor, -⟩ := attempt_placed_add refill h1 rfl (by simp [hplacement, hcell]) (by simp [hadd, hop])
      show SameSource _ (readByte refill (readByte refill g))
      rw [hread]
      exact ⟨hbuf, hcursor⟩
    · next hop => exact hone (.inr (by rw [hadd, decide_eq_false hop]))
  | failed hcell hbusy hlat hcode =>
    exact ⟨0, by rw [hcode]; rfl, hone (.inl (hplacement.trans hcell))⟩

/-- A call that goes on reads one byte for each attempt and one for each ADD placed (R145, R248). -/
theorem attempts_source {g : GenState} (hcode : g.code = []) {n : Nat} (hn : Ongoing refill n g) :
    SameSource (attempts refill n g) ((readByte refill)^[n + addCount (attempts refill n g).code] g) := by
  induction n with
  | zero =>
    have hzero : addCount g.code = 0 := by rw [hcode]; rfl
    show SameSource g ((readByte refill)^[0 + addCount g.code] g)
    rw [hzero]
    exact ⟨rfl, rfl⟩
  | succ n ih =>
    obtain ⟨m, hcount, hsource⟩ := attempt_source refill (attempts refill n g)
    obtain ⟨hbuf, hcursor⟩ := (ih hn.of_succ).iterate refill (m + 1)
    rw [hn.attempts_succ, hcount, show n + 1 + (addCount (attempts refill n g).code + m) =
      m + 1 + (n + addCount (attempts refill n g).code) by omega, Function.iterate_add_apply]
    exact ⟨hsource.1.trans hbuf, hsource.2.trans hcursor⟩

/-! ### The Program of a call -/

theorem code_length_le_attempt (g : GenState) : g.code.length ≤ (attempt refill g).code.length := by
  obtain ⟨hcode, -⟩ | ⟨hcode, -⟩ := code_busyCount_attempt refill g
  · omega
  · rw [hcode]

theorem code_length_le_attempts (n : Nat) (g : GenState) : g.code.length ≤ (attempts refill n g).code.length := by
  induction n with
  | zero => exact Nat.le_refl _
  | succ n ih =>
    cases ht : terminated (attempts refill n g) with
    | true => rwa [attempts_of_terminated_of_le refill ht n.le_succ]
    | false =>
      rw [attempts_succ_of_last refill n ht]
      exact ih.trans (code_length_le_attempt refill _)

theorem terminated_start (context : BitVec 64) : terminated (GenState.start context) = false := by
  have hfail : ¬ terminated (GenState.start context) = true := by
    rw [(GenState.start_inv context).terminated_iff_fail]
    exact Nat.zero_ne_add_one 63
  exact Bool.eq_false_of_not_eq_true hfail

/-- The first attempt's record stays (R146). -/
theorem one_le_code_length_attempts (context : BitVec 64) {n : Nat} (hn : 0 < n) :
    1 ≤ (attempts refill n (GenState.start context)).code.length := by
  obtain ⟨n, rfl⟩ := Nat.exists_eq_add_one.mpr hn
  rw [attempts_succ_of_not_terminated refill n (terminated_start context)]
  exact (attempt_start refill context).1.ge.trans (code_length_le_attempts refill n _)

theorem generate_eq (context : BitVec 64) : generate refill context =
    (attempts refill 6976 (GenState.start context)).code ++ [Instr.retRecord] := rfl

/-- The Program of a Generator that has the invariant is well formed (R40, R141). -/
theorem GenState.Inv.programWF {g : GenState} (h : g.Inv) : ProgramWF (g.code ++ [Instr.retRecord]) := by
  have hcode := h.code_length_le
  refine ⟨by simp, by simp; omega, by simp, fun i hi => ?_, fun i hi => ?_⟩
  · rw [List.dropLast_concat] at hi
    exact (h.code_wf i hi).2
  · obtain hi | hi := List.mem_append.mp hi
    · exact (h.code_wf i hi).1
    · rw [List.mem_singleton.mp hi]; rfl

end Sys2Proof.Machine

namespace Sys2Proof.Proofs

open Sys2Proof.Machine

/-- Settles O55: the measure bounds the attempts, and the bytes are counted attempt by attempt. -/
theorem generateTerminates : Obligations.GenerateTerminates := by
  intro refill context
  have hinv := GenState.start_inv context
  obtain ⟨n, hn, hterm, hongoing⟩ := exists_first_terminated refill hinv
  obtain ⟨hbuf, hcursor⟩ := attempts_source refill rfl hongoing
  have hcode := (hinv.attempts refill n).code_length_le
  have hadds : addCount (attempts refill n (GenState.start context)).code ≤ 108 := List.countP_le_length.trans hcode
  refine ⟨n, hn, n + addCount (attempts refill n (GenState.start context)).code, by omega, hterm, hongoing, rfl, ?_, ?_⟩
  · rw [nextBytes_snd]; exact hbuf
  · rw [nextBytes_snd]; exact hcursor

/-- Settles O56: the invariant holds after any number of attempts, and the first has placed a record. -/
theorem generateWellFormed : Obligations.GenerateWellFormed := by
  intro refill context
  have hinv := (GenState.start_inv context).attempts refill 6976
  have hmin := one_le_code_length_attempts refill context (n := 6976) (by decide)
  have hmax := hinv.code_length_le
  rw [generate_eq, List.length_append, List.length_singleton]
  exact ⟨hinv.programWF, by omega, by omega⟩

end Sys2Proof.Proofs
end

section
/-! PROOFS. The Executor: its steps (R170 to R172, R25, R236), and a run to the first RET (R176, R178) or off the end
(R235). -/

namespace Sys2Proof.Machine

/-! ### One step -/

/-- A Running Executor with no record to fetch ends Faulted (R172, R235). -/
theorem step_of_fetch_none {s : State} (hs : s.Executing) (hf : s.fetch = none) : step s = .next s.runOffEnd := by
  obtain ⟨hlaunch, hagent, hstatus⟩ := hs
  simp only [step_of_launchable hlaunch, hagent, executorStep, hstatus, hf]

theorem step_of_executor {s : State} (h : s.Launchable) (ha : s.agent = .executor) : step s = executorStep s := by
  rw [step_of_launchable h, ha]

/-- A halted call gives the turn back to the Host (R25). -/
theorem step_of_halted {s : State} (h : s.Launchable) (ha : s.agent = .executor) (hs : s.status = .halted) :
    step s = .next (s.setAgent .host) := by
  rw [step_of_executor h ha]
  simp only [executorStep, hs]

/-- A faulted call does so where a later call is pending, and otherwise stops the machine (R236, log 14). -/
theorem step_of_faulted {s : State} {r : Fault} (h : s.Launchable) (ha : s.agent = .executor)
    (hs : s.status = .faulted r) : step s = if s.calls.isEmpty then .fault r else .next (s.setAgent .host) := by
  rw [step_of_executor h ha]
  simp only [executorStep, hs]

/-! ### Runs -/

/-- A run with one step more. -/
theorem run_succ_of_run {n : Nat} {s t u : State} (h : run n s = .next t) (hstep : step t = .next u) :
    run (n + 1) s = .next u := by
  rw [run_add h 1, run_succ_of_step hstep, run_zero]

/-- `s` after the given operative records: their register file, and the pc past them (R172, R176). -/
def State.afterRecords (s : State) (body : List Instr) : State :=
  { s with regs := body.foldl applyInstr s.regs, pc := s.pc + body.length }

/-- One operative record is retired as `applyInstr` says. -/
theorem exec_eq_afterRecords {i : Instr} (h : i.isRet = false) (s : State) :
    exec i s = .next (s.afterRecords [i]) := by
  rw [exec_of_not_ret h]
  show _ = Host.Outcome.next { s with regs := applyInstr s.regs i, pc := s.pc + 1 }
  rw [← regs_retire_resultOf h]
  rfl

theorem afterRecords_cons (s : State) (i : Instr) (body : List Instr) :
    s.afterRecords (i :: body) = (s.afterRecords [i]).afterRecords body := by
  simp only [State.afterRecords, List.foldl_cons, List.foldl_nil, List.length_cons, List.length_nil, Nat.zero_add,
    Nat.add_assoc, Nat.add_comm 1]

/-- While its records are operative the Executor runs on, one record each step (R172, R178). -/
theorem run_body {body rest : List Instr} : ∀ {s : State}, s.Executing → s.program.drop s.pc = body ++ rest →
    (∀ j ∈ body, j.isRet = false) → run body.length s = .next (s.afterRecords body) := by
  induction body with
  | nil => intro s _ _ _; rfl
  | cons i body ih =>
    intro s hs hp hbody
    obtain ⟨hi, hbody⟩ := List.forall_mem_cons.mp hbody
    have hexec := exec_eq_afterRecords hi s
    have hstep : step s = .next (s.afterRecords [i]) := by rw [step_of_fetch hs (fetch_of_drop hp), hexec]
    obtain ⟨hs', hpc, hprogram⟩ := executing_of_exec hs hi hexec
    have hp' : (s.afterRecords [i]).program.drop (s.afterRecords [i]).pc = body ++ rest := by
      rw [hprogram, hpc, ← List.tail_drop, hp]; rfl
    rw [List.length_cons, run_succ_of_step hstep, ih hs' hp' hbody, ← afterRecords_cons]

/-- What is left of the Program after the given records. -/
theorem drop_afterRecords {s : State} {body rest : List Instr} (hp : s.program.drop s.pc = body ++ rest) :
    (s.afterRecords body).program.drop (s.afterRecords body).pc = rest := by
  show s.program.drop (s.pc + body.length) = rest
  rw [← List.drop_drop, hp, List.drop_left]

/-- A run to the first RET takes one step for each record before it and one for the RET (R176, R178). -/
theorem run_to_ret {s : State} {body tail : List Instr} {i : Instr} (hs : s.Executing)
    (hp : s.program.drop s.pc = body ++ i :: tail) (hbody : ∀ j ∈ body, j.isRet = false) (hi : i.isRet = true) :
    run (body.length + 1) s = .next { s.afterRecords body with status := .halted } := by
  have hs' : (s.afterRecords body).Executing := hs
  refine run_succ_of_run (run_body hs hp hbody) ?_
  rw [step_of_fetch hs' (fetch_of_drop (drop_afterRecords hp)), exec_of_ret hi]
  rfl

/-- A run of a Program with no RET ends with the step that faults (R172, R235). -/
theorem run_off_end {s : State} {body : List Instr} (hs : s.Executing) (hp : s.program.drop s.pc = body)
    (hbody : ∀ j ∈ body, j.isRet = false) :
    run (body.length + 1) s = .next { s.afterRecords body with status := .faulted .runOffEnd } := by
  have hp' : s.program.drop s.pc = body ++ [] := by rw [hp, List.append_nil]
  have hs' : (s.afterRecords body).Executing := hs
  have hf : (s.afterRecords body).fetch = none := by
    rw [State.fetch, ← List.head?_drop, drop_afterRecords hp', List.head?_nil]
  exact run_succ_of_run (run_body hs hp' hbody) (step_of_fetch_none hs' hf)

/-- Before each of its steps up to the first RET the Executor is Running (R178). -/
theorem running_before_ret {s : State} {body rest : List Instr} (hs : s.Executing)
    (hp : s.program.drop s.pc = body ++ rest) (hbody : ∀ j ∈ body, j.isRet = false) {n : Nat} (hn : n ≤ body.length) :
    ∃ t, run n s = .next t ∧ t.status = .running := by
  have hsplit : s.program.drop s.pc = body.take n ++ (body.drop n ++ rest) := by
    rw [← List.append_assoc, List.take_append_drop, hp]
  have hrun := run_body hs hsplit fun j hj => hbody j (List.mem_of_mem_take hj)
  rw [List.length_take_of_le hn] at hrun
  exact ⟨_, hrun, hs.2.2⟩

/-- From pc 0 the records go into the register file as they stand, and the pc is their number. -/
theorem afterRecords_of_pc_zero {s : State} (h : s.pc = 0) (body : List Instr) :
    s.afterRecords body = { s with regs := body.foldl applyInstr s.regs, pc := body.length } := by
  rw [State.afterRecords, h, Nat.zero_add]

theorem drop_of_pc_zero {s : State} (h : s.pc = 0) : s.program.drop s.pc = s.program := by
  rw [h, List.drop_zero]

end Sys2Proof.Machine

namespace Sys2Proof.Proofs

open Sys2Proof.Machine

/-- Settles O18: the records before the RET by induction, then the RET's own step. -/
theorem executeRunsToFirstRet : Obligations.ExecuteRunsToFirstRet := by
  intro s body tail i hs hpc hp hbody hi
  rw [← drop_of_pc_zero hpc] at hp
  refine ⟨fun n hn => running_before_ret hs hp hbody hn, ?_⟩
  rw [run_to_ret hs hp hbody hi, afterRecords_of_pc_zero hpc]

/-- Settles O19: all the records by induction, then the fetch past the end. -/
theorem executeWithoutRetFaults : Obligations.ExecuteWithoutRetFaults := by
  intro s hs hpc hbody
  rw [run_off_end hs (drop_of_pc_zero hpc) hbody, afterRecords_of_pc_zero hpc]

/-- Settles O15: both references fetch from the Program they name. -/
theorem stepRunsFetchedInstruction : Obligations.StepRunsFetchedInstruction := by
  refine ⟨fun s i hs href hi => step_of_fetch hs ?_, fun s p i hs href hi => step_of_fetch hs ?_⟩
  · rw [State.fetch, State.program_of_buffer href, hi]
  · rw [State.fetch, State.program_of_own href, hi]

/-- Settles O16: there is no record to fetch at or past the length. -/
theorem runOffEndFaults : Obligations.RunOffEndFaults :=
  fun _ hs hpc => step_of_fetch_none hs (List.getElem?_eq_none hpc)

/-- Settles O17: by the status of the finished call, and by whether a later call is pending. -/
theorem finishedCallReturnsOrFaults : Obligations.FinishedCallReturnsOrFaults := by
  intro s hs ha
  refine ⟨step_of_halted hs ha, fun r hr hcalls => ?_, fun r hr hcalls => ?_⟩
  · rw [step_of_faulted hs ha hr, hcalls]; rfl
  · rw [step_of_faulted hs ha hr, if_neg (by simpa using hcalls)]; rfl

end Sys2Proof.Proofs
end

section
/-! PROOFS. The Host's calls: how they start (R260, R261), which launches are refused (R235), and what no step or only a
call's start changes (R9, R22, R41, R63). -/

namespace Sys2Proof

/-! ### The check of a caller's sequence -/

/-- Operative records are accepted as they are, and the check goes on with what follows (R39, R235). -/
theorem decodeRecords_map_raw_append {p : List Instr} (h : ∀ j ∈ p, j.isRet = false) (rest : List RawRecord) :
    decodeRecords (p.map Instr.raw ++ rest) = (decodeRecords rest).map (p ++ ·) := by
  induction p with
  | nil =>
    show decodeRecords rest = (decodeRecords rest).map fun q => q
    cases decodeRecords rest <;> rfl
  | cons i p ih =>
    obtain ⟨hi, hp⟩ := List.forall_mem_cons.mp h
    rw [List.map_cons, List.cons_append, decodeRecords_cons_of_not_ret (decodeRecord_raw i) hi, ih hp]
    cases decodeRecords rest <;> rfl

/-- A sequence is accepted up to its first RET, or whole where it has none, whatever follows that RET (R39). -/
theorem decodeRecords_up_to_ret {p : List Instr} {tail : List RawRecord} (hbody : ∀ j ∈ p.dropLast, j.isRet = false)
    (hlast : tail = [] ∨ ∃ i, p.getLast? = some i ∧ i.isRet = true) :
    decodeRecords (p.map Instr.raw ++ tail) = .ok p := by
  obtain rfl | ⟨body, i, rfl⟩ := List.eq_nil_or_concat' p
  · obtain rfl | ⟨i, hi, -⟩ := hlast
    · rfl
    · cases hi
  · rw [List.dropLast_concat] at hbody
    rw [List.map_append, List.append_assoc, decodeRecords_map_raw_append hbody, List.map_singleton,
      List.singleton_append]
    cases hi : i.isRet with
    | true => rw [decodeRecords_cons_of_ret (decodeRecord_raw i) hi]; rfl
    | false =>
      have htail : tail = [] := hlast.resolve_right (by simp [hi])
      rw [htail, decodeRecords_cons_of_not_ret (decodeRecord_raw i) hi]
      rfl

/-- A record whose op is not 6 is no RET (R76). -/
theorem not_isRet_of_decodeRecord {r : RawRecord} {i : Instr} (hr : r.op ≠ 6) (h : decodeRecord r = .ok i) :
    i.isRet = false := by
  rw [Instr.isRet_eq, decide_eq_false_iff_not]
  intro hop
  apply hr
  rw [← raw_of_decodeRecord h]
  show i.opcode.number = 6
  rw [hop]
  rfl

/-- A record out of range before or at the first RET is refused (R235). -/
theorem exists_error_of_malformed {pre post : List RawRecord} {r : RawRecord} (hpre : ∀ q ∈ pre, q.op ≠ 6)
    (hr : ¬ Machine.InRange r) : ∃ e, decodeRecords (pre ++ r :: post) = .error e := by
  induction pre with
  | nil =>
    obtain ⟨e, he⟩ := exists_error_of_not_inRange hr
    exact ⟨e, decodeRecords_cons_of_error he post⟩
  | cons q pre ih =>
    obtain ⟨hq, hpre⟩ := List.forall_mem_cons.mp hpre
    cases hdecode : decodeRecord q with
    | error e => exact ⟨e, decodeRecords_cons_of_error hdecode _⟩
    | ok i =>
      obtain ⟨e, he⟩ := ih hpre
      refine ⟨e, ?_⟩
      rw [List.cons_append, decodeRecords_cons_of_not_ret hdecode (not_isRet_of_decodeRecord hq hdecode), he]

end Sys2Proof

namespace Sys2Proof.Machine

/-! ### Refused launches -/

theorem step_of_unsupported_width {s : State} (h32 : s.width ≠ 32) (h64 : s.width ≠ 64) :
    step s = .refused .unsupportedWidth := by
  have hw : s.widthSupported = false := by simp [State.widthSupported, h32, h64]
  simp [step, cycle, hw]

theorem step_of_shared_storage {s : State} (hw : s.width = 32 ∨ s.width = 64) (h : ¬ s.storage.Nodup) :
    step s = .refused .sharedBuffers := by
  have hwidth : s.widthSupported = true := by simpa [State.widthSupported] using hw
  have hshares : s.sharesBuffers = true := by simp [State.sharesBuffers, h]
  simp [step, cycle, hwidth, hshares]

/-- A computation whose own three buffers are not distinct uses some storage twice (log 17). -/
theorem not_nodup_of_own {s : State} {a : Buffers} (ha : a ∈ s.buffers :: s.concurrent)
    (h : a.program = a.registers ∨ a.program = a.generator ∨ a.registers = a.generator) : ¬ s.storage.Nodup := by
  intro hs
  have hnames : a.names.Nodup := (List.nodup_flatMap.mp hs).1 a ha
  simp only [Buffers.names, List.nodup_cons, List.mem_cons, List.not_mem_nil, or_false, not_or] at hnames
  obtain ⟨⟨hpr, hpg⟩, hrg, -⟩ := hnames
  exact h.elim hpr (Or.elim · hpg hrg)

theorem launchProgram_of_long {raw : List RawRecord} (h : 110 < raw.length) :
    launchProgram (some raw) = .error .programTooLong := if_pos h

theorem launchProgram_of_error {raw : List RawRecord} {e : DecodeError} (hlen : raw.length ≤ 110)
    (h : decodeRecords raw = .error e) : launchProgram (some raw) = .error (.malformedRecord e) := by
  have hmax : ¬ Config.programMax < raw.length := Nat.not_lt.mpr hlen
  simp only [launchProgram, if_neg hmax, h]

theorem launchProgram_of_ok {raw : List RawRecord} {p : List Instr} (hlen : raw.length ≤ 110)
    (h : decodeRecords raw = .ok p) : launchProgram (some raw) = .ok (.own p) := by
  have hmax : ¬ Config.programMax < raw.length := Nat.not_lt.mpr hlen
  simp only [launchProgram, if_neg hmax, h]

/-! ### The start of a call -/

theorem step_of_host_turn {s : State} (h : s.Launchable) (ha : s.agent = .host) : step s = hostStep s := by
  rw [step_of_launchable h, ha]

theorem step_of_call {s : State} {c : HostCall s.width} {rest : List (HostCall s.width)} (h : s.Launchable)
    (ha : s.agent = .host) (hc : s.calls = c :: rest) : step s = startCall { s with calls := rest } c :=
  (step_of_host_turn h ha).trans (hostStep_cons hc)

theorem step_of_no_call {s : State} (h : s.Launchable) (ha : s.agent = .host) (hc : s.calls = []) :
    step s = .next s := by
  rw [step_of_host_turn h ha]
  simp only [hostStep, hc]

section Execute

variable {s : State} {raw : Option (List RawRecord)} {vars : Option (Vector (Word s.width) 4)}
  {consts : Vector (Word s.width) 4} {rest : List (HostCall s.width)}

theorem step_of_execute_refused {r : Refusal} (h : s.Launchable) (ha : s.agent = .host)
    (hc : s.calls = .execute raw vars consts :: rest) (hr : launchProgram raw = .error r) : step s = .refused r := by
  rw [step_of_call h ha hc]
  simp only [startCall, hr]

theorem step_of_execute_accepted {ref : ProgramRef} (h : s.Launchable) (ha : s.agent = .host)
    (hc : s.calls = .execute raw vars consts :: rest) (href : launchProgram raw = .ok ref) :
    step s = .next { s with
      calls := rest, ref := ref, regs := launchRegs s.regs vars consts, pc := 0, status := .running
      agent := .executor } := by
  rw [step_of_call h ha hc]
  simp only [startCall, href]

end Execute

/-- x[0..3] at the start of execute are the Host's where it gives them (R263). -/
theorem launchRegs_given {w : Nat} (x : Vector (Word w) 8) (v consts : Vector (Word w) 4) (i : Fin 4) :
    (launchRegs x (some v) consts)[i.val] = v[i] := by
  match i with | 0 | 1 | 2 | 3 => rfl

/-- Otherwise they carry over (R179). -/
theorem launchRegs_carried {w : Nat} (x : Vector (Word w) 8) (consts : Vector (Word w) 4) (i : Fin 4) :
    (launchRegs x none consts)[i.val] = x[i.val] := by
  match i with | 0 | 1 | 2 | 3 => rfl

/-- x[4..7] at the start of execute: the Host's (R22, R263). -/
theorem launchRegs_constant {w : Nat} (x : Vector (Word w) 8) (vars : Option (Vector (Word w) 4))
    (consts : Vector (Word w) 4) (i : Fin 4) : (launchRegs x vars consts)[i.val + 4] = consts[i] := by
  cases vars <;> (match i with | 0 | 1 | 2 | 3 => rfl)

/-! ### What a step leaves as it is -/

/-- One instruction changes the register file, the pc and the status, and nothing else (R63, R170). -/
theorem exec_frame {i : Instr} {s t : State} (h : exec i s = .next t) :
    t.width = s.width ∧ t.buffers = s.buffers ∧ t.concurrent = s.concurrent ∧ t.prog = s.prog ∧ t.ref = s.ref ∧
      t.gen = s.gen := by
  cases i <;> (cases h; exact ⟨rfl, rfl, rfl, rfl, rfl, rfl⟩)

/-- One instruction changes no constant register (R22, R175). -/
theorem exec_constant {i : Instr} {s t : State} (h : exec i s = .next t) {r : Fin 8} (hr : 4 ≤ r.val) :
    t.x r = s.x r := by
  cases hi : i.isRet with
  | true => rw [exec_of_ret hi] at h; cases h; rfl
  | false => exact (Proofs.operativeWritesOneRegister i s t hi h).2.2 r hr

end Sys2Proof.Machine

namespace Sys2Proof.Proofs

open Sys2Proof.Machine

/-- Settles O21: the Host's step on its oldest call; each reset value is the blank state's or the seed. -/
theorem generateCallStarts : Obligations.GenerateCallStarts :=
  ⟨fun _ _ _ h ha hc => step_of_call h ha hc,
    fun _ => ⟨rfl, rfl, rfl, by simp [GenState.start, GenState.blank], by simp [GenState.start, GenState.blank], rfl⟩⟩

/-- Settles O22: the buffer is accepted as it is, and a caller's sequence up to its first RET. -/
theorem executeCallStarts : Obligations.ExecuteCallStarts := by
  intro s raw vars consts rest ref h ha hc hprog
  have href : launchProgram raw = .ok ref := by
    obtain ⟨rfl, rfl⟩ | ⟨p, tail, rfl, hlen, hbody, hlast, rfl⟩ := hprog
    · rfl
    · exact launchProgram_of_ok (by simpa using hlen) (decodeRecords_up_to_ret hbody hlast)
  refine ⟨_, step_of_execute_accepted h ha hc href, fun i => ?_, launchRegs_constant s.regs vars consts⟩
  cases vars with
  | none => exact launchRegs_carried s.regs consts i
  | some v => exact launchRegs_given s.regs v consts i

/-- Settles O23: the launch's checks in their order, and the two of a caller's sequence. -/
theorem launchRefusals : Obligations.LaunchRefusals := by
  refine ⟨fun s => step_of_unsupported_width, fun s a b n hw hab hna hnb => ?_, fun s a hw ha hsame => ?_,
    fun s raw vars consts rest h ha hc => ⟨fun hlen => ?_, fun pre post r hraw hlen hpre hr => ?_⟩⟩
  · exact step_of_shared_storage hw (not_nodup_of_common hab hna hnb)
  · exact step_of_shared_storage hw (not_nodup_of_own ha hsame)
  · exact step_of_execute_refused h ha hc (launchProgram_of_long hlen)
  · obtain ⟨e, he⟩ := exists_error_of_malformed (post := post) hpre hr
    exact ⟨e, step_of_execute_refused h ha hc (launchProgram_of_error hlen (hraw ▸ he))⟩

/-- Settles O24: by what a step can be; the Executor's records write variable registers alone. -/
theorem onlyHostLoadsConstants : Obligations.OnlyHostLoadsConstants := by
  intro s t r hr hstep hne
  obtain ⟨-, -, rfl⟩ | ⟨ha, c, rest, hc, hstart⟩ | ⟨-, -, rfl⟩ | ⟨-, -, rfl⟩ | ⟨-, -, -, rfl⟩ | ⟨-, -, i, -, hexec⟩ |
    ⟨-, -, rfl⟩ := step_cases hstep
  · exact absurd rfl hne
  · obtain ⟨context, -, rfl⟩ | ⟨raw, vars, consts, ref, rfl, -⟩ := startCall_cases hstart
    · exact absurd rfl hne
    · exact ⟨ha, raw, vars, consts, rest, hc⟩
  · exact absurd rfl hne
  · exact absurd rfl hne
  · exact absurd rfl hne
  · exact absurd (exec_constant hexec hr) hne
  · exact absurd rfl hne

/-- Settles O25: by what a step can be. -/
theorem fixedThroughoutTheRun : Obligations.FixedThroughoutTheRun := by
  intro s t hstep
  obtain ⟨-, -, rfl⟩ | ⟨ha, c, rest, hc, hstart⟩ | ⟨ha, hterm, rfl⟩ | ⟨ha, -, rfl⟩ | ⟨-, -, -, rfl⟩ |
    ⟨-, -, i, -, hexec⟩ | ⟨-, -, rfl⟩ := step_cases hstep
  · exact ⟨rfl, rfl, rfl, fun _ => ⟨rfl, rfl, rfl⟩, fun h => absurd rfl h⟩
  · have hnot : s.agent ≠ .executor := by simp [ha]
    obtain ⟨context, rfl, rfl⟩ | ⟨raw, vars, consts, ref, -, -, rfl⟩ := startCall_cases hstart
    · exact ⟨rfl, rfl, rfl, fun h => absurd h hnot, fun _ => .inl ⟨ha, rfl, context, rest, hc⟩⟩
    · exact ⟨rfl, rfl, rfl, fun h => absurd h hnot, fun h => absurd rfl h⟩
  · exact ⟨rfl, rfl, rfl, fun h => by simp [ha] at h, fun _ => .inr ⟨ha, hterm⟩⟩
  · exact ⟨rfl, rfl, rfl, fun h => by simp [ha] at h, fun h => absurd rfl h⟩
  · exact ⟨rfl, rfl, rfl, fun _ => ⟨rfl, rfl, rfl⟩, fun h => absurd rfl h⟩
  · obtain ⟨hwidth, hbuffers, hconcurrent, hprog, href, hgen⟩ := exec_frame hexec
    exact ⟨hwidth, hbuffers, hconcurrent, fun _ => ⟨hprog, href, hgen⟩, fun h => absurd hprog h⟩
  · exact ⟨rfl, rfl, rfl, fun _ => ⟨rfl, rfl, rfl⟩, fun h => absurd rfl h⟩

/-- Settles O26: the reset values by evaluation, the wait by the Host's step. -/
theorem resetLeaves : Obligations.ResetLeaves :=
  ⟨rfl, by decide, rfl, rfl, rfl, rfl, rfl, rfl, rfl, rfl, by decide, by decide, by decide, rfl, rfl, rfl,
    fun _ => step_of_no_call⟩

end Sys2Proof.Proofs
end

section
/-! PROOFS. The machine refines generate (R148, R150), and a whole hash computation ends with its Program's result (R7,
R176, R178). -/

namespace Sys2Proof.Machine

/-- The state in which a generate call has just been started (R260). -/
def State.generating (s : State) (context : BitVec 64) (rest : List (HostCall s.width)) : State :=
  { s with calls := rest, prog := [], gen := GenState.start context, agent := .generator }

/-- While the call goes on, each step of the machine is one attempt (R140). -/
theorem run_attempts {s : State} (h : s.Launchable) (ha : s.agent = .generator) {n : Nat}
    (hn : Ongoing Config.refill n s.gen) :
    run n s = .next { s with gen := attempts Config.refill n s.gen } := by
  induction n with
  | zero => rfl
  | succ n ih =>
    have hterm := hn n n.lt_succ_self
    have hs : ({ s with gen := attempts Config.refill n s.gen } : State).Launchable := h
    rw [hn.attempts_succ]
    exact run_succ_of_run (ih hn.of_succ) ((step_of_generator hs ha).trans (generatorStep_of_not_terminated hterm))

/-- A started generate call ends with its Program in the buffer (R141, R148). -/
theorem run_generating {s : State} (h : s.Launchable) (context : BitVec 64) (rest : List (HostCall s.width)) :
    ∃ n ≤ 6977, run n (s.generating context rest) = .next { s with
      calls := rest, prog := generate Config.refill context, gen := GenState.blank, agent := .host } := by
  obtain ⟨n, hn, hterm, hongoing⟩ := exists_first_terminated Config.refill (GenState.start_inv context)
  have hs : (s.generating context rest).Launchable := h
  have hrun := run_attempts hs rfl (n := n) hongoing
  have hprog : generate Config.refill context =
      finishedProgram (attempts Config.refill n (GenState.start context)) :=
    congrArg finishedProgram (attempts_of_terminated_of_le Config.refill hterm hn)
  refine ⟨n + 1, Nat.succ_le_succ hn, run_succ_of_run hrun ?_⟩
  rw [hprog]
  exact (step_of_generator (s := { s.generating context rest with gen := _ }) h rfl).trans
    (generatorStep_of_terminated hterm)

/-- A generate call from the Host's turn to the Host's next one (R148, R150). -/
theorem run_generate_call {s : State} {context : BitVec 64} {rest : List (HostCall s.width)} (h : s.Launchable)
    (ha : s.agent = .host) (hc : s.calls = .generate context :: rest) : ∃ n ≤ 6978, run n s =
      .next { s with calls := rest, prog := generate Config.refill context, gen := GenState.blank } := by
  obtain ⟨n, hn, hrun⟩ := run_generating h context rest
  refine ⟨n + 1, Nat.succ_le_succ hn, ?_⟩
  rw [run_succ_of_step (step_of_call h ha hc)]
  exact hrun.trans (by rw [← ha])

/-- The register file at the start of an execute call that gives all eight registers (R38, R176). -/
theorem launchRegs_eq {w : Nat} {x y : Vector (Word w) 8} {vars consts : Vector (Word w) 4}
    (hy : ∀ i : Fin 4, y[i.val] = vars[i] ∧ y[i.val + 4] = consts[i]) : launchRegs x (some vars) consts = y := by
  ext1 i hi
  by_cases hlow : i < 4
  · exact (launchRegs_given x vars consts ⟨i, hlow⟩).trans (hy ⟨i, hlow⟩).1.symm
  · obtain ⟨j, rfl⟩ := Nat.exists_eq_add_of_le' (Nat.not_lt.mp hlow)
    have hj : j < 4 := by omega
    exact (launchRegs_constant x (some vars) consts ⟨j, hj⟩).trans (hy ⟨j, hj⟩).2.symm

/-- The state in which an execute call on the Program buffer has just been started (R261). -/
def State.executing (s : State) (regs : Vector (Word s.width) 8) (rest : List (HostCall s.width)) : State :=
  { s with calls := rest, ref := .buffer, regs := regs, pc := 0, status := .running, agent := .executor }

/-- An execute call on the Program in the buffer, from the Host's turn to the Host's next one (R176, R178). -/
theorem run_execute_call {s : State} {vars : Option (Vector (Word s.width) 4)} {consts : Vector (Word s.width) 4}
    {rest : List (HostCall s.width)} {body : List Instr} (h : s.Launchable) (ha : s.agent = .host)
    (hc : s.calls = .execute none vars consts :: rest) (hprog : s.prog = body ++ [Instr.retRecord])
    (hbody : ∀ j ∈ body, j.isRet = false) :
    run (body.length + 1 + 1 + 1) s = .next { s with
      calls := rest, ref := .buffer, regs := body.foldl applyInstr (launchRegs s.regs vars consts)
      pc := body.length, status := .halted } := by
  have hs : (s.executing (launchRegs s.regs vars consts) rest).Executing := ⟨h, rfl, rfl⟩
  have hrun := (Proofs.executeRunsToFirstRet _ body [] Instr.retRecord hs rfl hprog hbody rfl).2
  have hreturn := run_succ_of_run hrun (step_of_halted h rfl rfl)
  rw [run_succ_of_step (step_of_execute_accepted h ha hc rfl)]
  exact hreturn.trans (by rw [State.setAgent, ← ha]; rfl)

end Sys2Proof.Machine

namespace Sys2Proof.Proofs

open Sys2Proof.Machine

/-- Settles O57: one step to start, one for each attempt of `generate`, and one to return its Program. -/
theorem generateCallReturnsProgram : Obligations.GenerateCallReturnsProgram :=
  fun _ _ _ => run_generate_call

/-- Settles O58: a generate call and an execute call joined; all records of the Program but its RET are operative. -/
theorem hashComputationEnds : Obligations.HashComputationEnds := by
  intro s context vars consts x h ha hc hx
  have hinv := (GenState.start_inv context).attempts Config.refill 6976
  have hlen := hinv.code_length_le
  obtain ⟨n, hn, hgenerate⟩ := run_generate_call h ha hc
  have hexecute := run_execute_call (s := { s with
    calls := [.execute none (some vars) consts], prog := generate Config.refill context, gen := GenState.blank })
    h ha rfl (generate_eq Config.refill context) fun j hj => (hinv.code_wf j hj).2
  refine ⟨_, ?_, (run_add hgenerate _).trans (hexecute.trans ?_)⟩
  · omega
  · rw [launchRegs_eq hx, generate_eq, List.dropLast_concat, List.length_append, List.length_singleton,
      Nat.add_sub_cancel]

end Sys2Proof.Proofs
end
